-- ==== Sys2Proof/Word.lean ====
section
/-! DEFINITION. The word types of the block (`00_scope.md` R7, R8). -/

namespace Sys2Proof

/-- A command, response or edge word: `W` = 32 bits (R7). -/
abbrev Word := BitVec 32

/-- A decoded byte (R52, R158). -/
abbrev Byte := BitVec 8

/-- A stored duration in nanoseconds: `DUR_BITS` = 31 bits (R7, R28). -/
abbrev Duration := BitVec 31

end Sys2Proof
end

