-- ==== Sys2Proof/Syntax.lean ====
section
/-! DEFINITION. The thirteen operations, one constructor per row of the opcode table (`30_encoding.md`
R72, R73, R76), and the packet a command is carried in (R70). -/

namespace Sys2Proof

/-- An operation with its operands: flags first, then the operand words in their order (R73, R76). -/
inductive Instr where
  /-- `BUILD_PROFILE` (R103). -/
  | buildProfile (dt : Bool) (t1Ns t2Ns t3Ns resetUs toleranceNs : Word)
  /-- `SET_GAP_TOLERANCE` (R104). -/
  | setGapTolerance (gapToleranceNs : Word)
  /-- `GET_PROFILE` (R105). -/
  | getProfile
  /-- `CONFIGURE` (R121). -/
  | configure (ovr spl : Bool)
      (bufferCapacity signalRangeMinNs signalRangeMaxNs skipSignals overrideCapacity : Word)
  /-- `PUSH_EDGE` (R124). -/
  | pushEdge (hi : Bool) (durationNs : Word)
  /-- `FINISH` (R128). -/
  | finish
  /-- `BUF_RESET` (R129). -/
  | bufReset
  /-- `EDGE_COUNT` (R130). -/
  | edgeCount
  /-- `IS_FINISHED` (R131). -/
  | isFinished
  /-- `BUFFER_CAPACITY` (R132). -/
  | bufferCapacity
  /-- `GET_RAW_EDGES` (R133). -/
  | getRawEdges (maxN offset : Word)
  /-- `GET_CONFIG` (R134). -/
  | getConfig
  /-- `DECODE` (R151). -/
  | decode (spl : Bool) (outLen : Word)
  deriving DecidableEq, Repr

/-- The operation selected by a header's opcode field, without its operands (R72). -/
inductive Opcode where
  | buildProfile | setGapTolerance | getProfile
  | configure | pushEdge | finish | bufReset | edgeCount | isFinished | bufferCapacity
  | getRawEdges | getConfig
  | decode
  deriving DecidableEq, Repr

/-- A command as the port delivers it, whole: a header word and the words that follow it (R70).
Whether it is a legal command is `Packet.isLegal` (R77). A packet without a header word cannot be written
(log entry 15). -/
structure Packet where
  header   : Word
  operands : List Word
  deriving DecidableEq, Repr

end Sys2Proof
end

