-- ==== Sys2Proof/WellFormed.lean ====
section
/-! DEFINITION. Which commands are legal (`30_encoding.md` R77), by the match and mask rows of
`opcode_table.json`. The decoder reads fields instead; that the two agree is a statement.
Every term of `Instr` is a legal operation, whatever its operand words hold (R78). -/

namespace Sys2Proof

/-- One row of `opcode_table.json`; `operandCount` is the `k` of its format `H+k` (R73). -/
structure OpcodeRow where
  mnemonic     : String
  matchWord    : Word
  mask         : Word
  operandCount : Nat
  deriving DecidableEq, Repr

/-- The thirteen rows, in the table's order (R72, R77). -/
def opcodeRows : List OpcodeRow :=
  [ ⟨"BUILD_PROFILE",     0x10000000, 0xFFFFFFFE, 5⟩,
    ⟨"SET_GAP_TOLERANCE", 0x11000000, 0xFFFFFFFF, 1⟩,
    ⟨"GET_PROFILE",       0x12000000, 0xFFFFFFFF, 0⟩,
    ⟨"CONFIGURE",         0x01000000, 0xFFFFFFFC, 5⟩,
    ⟨"PUSH_EDGE",         0x02000000, 0xFFFFFFFE, 1⟩,
    ⟨"FINISH",            0x03000000, 0xFFFFFFFF, 0⟩,
    ⟨"BUF_RESET",         0x04000000, 0xFFFFFFFF, 0⟩,
    ⟨"EDGE_COUNT",        0x05000000, 0xFFFFFFFF, 0⟩,
    ⟨"IS_FINISHED",       0x06000000, 0xFFFFFFFF, 0⟩,
    ⟨"BUFFER_CAPACITY",   0x07000000, 0xFFFFFFFF, 0⟩,
    ⟨"GET_RAW_EDGES",     0x08000000, 0xFFFFFFFF, 2⟩,
    ⟨"GET_CONFIG",        0x09000000, 0xFFFFFFFF, 0⟩,
    ⟨"DECODE",            0x20000000, 0xFFFFFFFE, 1⟩ ]

/-- The header agrees with the row: `(H & mask) == match` (R77). -/
def OpcodeRow.admits (r : OpcodeRow) (h : Word) : Bool := h &&& r.mask == r.matchWord

/-- The command is legal: its header agrees with one row and as many words follow as the row says (R77). -/
def Packet.isLegal (p : Packet) : Bool :=
  opcodeRows.any fun r => r.admits p.header && p.operands.length == r.operandCount

end Sys2Proof
end

