-- ==== Sys2Proof/Decode.lean ====
section
/-! DEFINITION. The command decoder, total on every packet and rejecting by name (`30_encoding.md` R70 to
R80), the encoder written from the same tables, the listing syntax and the pseudo-operations (R82, R83),
and the table-word form the host reads. -/

namespace Sys2Proof

/-- Why a packet is no command (R77). Every reason is answered alike, `ILLEGAL_COMMAND` (R185). -/
inductive Illegal where
  /-- "its `opcode` is not one of the thirteen" -/
  | unassignedOpcode
  /-- "`H[23:8]` is not 0" -/
  | reservedZeroField
  /-- "a reserved flag bit of its operation is 1" -/
  | reservedFlag
  /-- "the packet length is not `1 + k`" -/
  | wrongLength
  deriving DecidableEq, Repr

/-! ### The tables (R72, R73, R76) -/

def Opcode.all : List Opcode :=
  [.buildProfile, .setGapTolerance, .getProfile, .configure, .pushEdge, .finish, .bufReset, .edgeCount,
   .isFinished, .bufferCapacity, .getRawEdges, .getConfig, .decode]

/-- The opcode values of R72. -/
def Opcode.code : Opcode → Byte
  | .buildProfile    => 0x10
  | .setGapTolerance => 0x11
  | .getProfile      => 0x12
  | .configure       => 0x01
  | .pushEdge        => 0x02
  | .finish          => 0x03
  | .bufReset        => 0x04
  | .edgeCount       => 0x05
  | .isFinished      => 0x06
  | .bufferCapacity  => 0x07
  | .getRawEdges     => 0x08
  | .getConfig       => 0x09
  | .decode          => 0x20

/-- The operand count `k` of R73. -/
def Opcode.operandCount : Opcode → Nat
  | .buildProfile    => 5
  | .setGapTolerance => 1
  | .getProfile      => 0
  | .configure       => 5
  | .pushEdge        => 1
  | .finish          => 0
  | .bufReset        => 0
  | .edgeCount       => 0
  | .isFinished      => 0
  | .bufferCapacity  => 0
  | .getRawEdges     => 2
  | .getConfig       => 0
  | .decode          => 1

/-- The flag bits R76 defines for the operation; every other bit of `flags` is reserved. -/
def Opcode.flagMask : Opcode → Byte
  | .buildProfile    => 0b01
  | .setGapTolerance => 0
  | .getProfile      => 0
  | .configure       => 0b11
  | .pushEdge        => 0b01
  | .finish          => 0
  | .bufReset        => 0
  | .edgeCount       => 0
  | .isFinished      => 0
  | .bufferCapacity  => 0
  | .getRawEdges     => 0
  | .getConfig       => 0
  | .decode          => 0b01

/-- The operation an opcode value selects, if one does (R72). -/
def Opcode.ofByte? (b : Byte) : Option Opcode := Opcode.all.find? fun o => o.code == b

/-! ### The header fields (R71) -/

def headerOpcode (h : Word) : Byte := h.extractLsb' 24 8
def headerZero (h : Word) : BitVec 16 := h.extractLsb' 8 16
def headerFlags (h : Word) : Byte := h.extractLsb' 0 8

/-- A header: the opcode in `H[31:24]`, the `zero` field 0, the flags in `H[7:0]` (R71). -/
def header (o : Opcode) (flags : Byte) : Word :=
  BitVec.ofNat 32 (o.code.toNat * 2 ^ 24 + flags.toNat)

/-- The flag byte with the given bits 0 and 1 (R76). -/
def flagByte (bit0 bit1 : Bool) : Byte := 
  (if bit0 then 0b01 else 0) ||| (if bit1 then 0b10 else 0)

/-! ### Decoding -/

/-- The operation from its opcode, flags and operand words (R73, R76, R80); `none` when the number of
words is not the operation's. -/
def assemble (o : Opcode) (flags : Byte) (ws : List Word) : Option Instr :=
  match o with
  | .buildProfile    => match ws with
    | [t1, t2, t3, ru, tol] => some (.buildProfile (flags.getLsbD 0) t1 t2 t3 ru tol)
    | _ => none
  | .setGapTolerance => match ws with | [g] => some (.setGapTolerance g) | _ => none
  | .getProfile      => match ws with | [] => some .getProfile | _ => none
  | .configure       => match ws with
    | [bc, lo, hi, sk, oc] => some (.configure (flags.getLsbD 0) (flags.getLsbD 1) bc lo hi sk oc)
    | _ => none
  | .pushEdge        => match ws with | [d] => some (.pushEdge (flags.getLsbD 0) d) | _ => none
  | .finish          => match ws with | [] => some .finish | _ => none
  | .bufReset        => match ws with | [] => some .bufReset | _ => none
  | .edgeCount       => match ws with | [] => some .edgeCount | _ => none
  | .isFinished      => match ws with | [] => some .isFinished | _ => none
  | .bufferCapacity  => match ws with | [] => some .bufferCapacity | _ => none
  | .getRawEdges     => match ws with | [n, off] => some (.getRawEdges n off) | _ => none
  | .getConfig       => match ws with | [] => some .getConfig | _ => none
  | .decode          => match ws with | [n] => some (.decode (flags.getLsbD 0) n) | _ => none

/-- The operation a packet carries, or why it is illegal (R77, R79). -/
def decode (p : Packet) : Except Illegal Instr :=
  match Opcode.ofByte? (headerOpcode p.header) with
  | none => .error .unassignedOpcode
  | some o =>
    if headerZero p.header ≠ 0 then .error .reservedZeroField
    else if headerFlags p.header &&& ~~~o.flagMask ≠ 0 then .error .reservedFlag
    else match assemble o (headerFlags p.header) p.operands with
      | none => .error .wrongLength
      | some i => .ok i

/-! ### Encoding -/

def Instr.opcode : Instr → Opcode
  | .buildProfile _ _ _ _ _ _  => .buildProfile
  | .setGapTolerance _         => .setGapTolerance
  | .getProfile                => .getProfile
  | .configure _ _ _ _ _ _ _   => .configure
  | .pushEdge _ _              => .pushEdge
  | .finish                    => .finish
  | .bufReset                  => .bufReset
  | .edgeCount                 => .edgeCount
  | .isFinished                => .isFinished
  | .bufferCapacity            => .bufferCapacity
  | .getRawEdges _ _           => .getRawEdges
  | .getConfig                 => .getConfig
  | .decode _ _                => .decode

/-- The flag byte of the operation (R76). -/
def Instr.flags : Instr → Byte
  | .buildProfile dt _ _ _ _ _    => flagByte dt false
  | .setGapTolerance _            => 0
  | .getProfile                   => 0
  | .configure ovr spl _ _ _ _ _  => flagByte ovr spl
  | .pushEdge hi _                => flagByte hi false
  | .finish                       => 0
  | .bufReset                     => 0
  | .edgeCount                    => 0
  | .isFinished                   => 0
  | .bufferCapacity               => 0
  | .getRawEdges _ _              => 0
  | .getConfig                    => 0
  | .decode spl _                 => flagByte spl false

/-- The operand words in their order (R73). -/
def Instr.operands : Instr → List Word
  | .buildProfile _ t1 t2 t3 ru tol  => [t1, t2, t3, ru, tol]
  | .setGapTolerance g               => [g]
  | .getProfile                      => []
  | .configure _ _ bc lo hi sk oc    => [bc, lo, hi, sk, oc]
  | .pushEdge _ d                    => [d]
  | .finish                          => []
  | .bufReset                        => []
  | .edgeCount                       => []
  | .isFinished                      => []
  | .bufferCapacity                  => []
  | .getRawEdges n off               => [n, off]
  | .getConfig                       => []
  | .decode _ n                      => [n]

/-- The packet that carries an operation (R70 to R73, R76). -/
def encode (i : Instr) : Packet := ⟨header i.opcode i.flags, i.operands⟩

/-! ### Listings and pseudo-operations (R82, R83) -/

/-- The mnemonic of R72. -/
def Opcode.mnemonic : Opcode → String
  | .buildProfile    => "BUILD_PROFILE"
  | .setGapTolerance => "SET_GAP_TOLERANCE"
  | .getProfile      => "GET_PROFILE"
  | .configure       => "CONFIGURE"
  | .pushEdge        => "PUSH_EDGE"
  | .finish          => "FINISH"
  | .bufReset        => "BUF_RESET"
  | .edgeCount       => "EDGE_COUNT"
  | .isFinished      => "IS_FINISHED"
  | .bufferCapacity  => "BUFFER_CAPACITY"
  | .getRawEdges     => "GET_RAW_EDGES"
  | .getConfig       => "GET_CONFIG"
  | .decode          => "DECODE"

/-- The operands of a listing line, `name` and value, flags written as 0 or 1, in the order of the
spec's listings (R82, `95_test_vectors.md`; log entry 13). -/
def Instr.listingOperands : Instr → List (String × Nat)
  | .buildProfile dt t1 t2 t3 ru tol =>
      [("dt", dt.toNat), ("t1_ns", t1.toNat), ("t2_ns", t2.toNat), ("t3_ns", t3.toNat),
       ("reset_us", ru.toNat), ("tolerance_ns", tol.toNat)]
  | .setGapTolerance g => [("gap_tolerance_ns", g.toNat)]
  | .getProfile => []
  | .configure ovr spl bc lo hi sk oc =>
      [("buffer_capacity", bc.toNat), ("signal_range_min_ns", lo.toNat),
       ("signal_range_max_ns", hi.toNat), ("skip_signals", sk.toNat), ("spl", spl.toNat),
       ("ovr", ovr.toNat), ("override_capacity", oc.toNat)]
  | .pushEdge hi d => [("hi", hi.toNat), ("duration_ns", d.toNat)]
  | .finish => []
  | .bufReset => []
  | .edgeCount => []
  | .isFinished => []
  | .bufferCapacity => []
  | .getRawEdges n off => [("max_n", n.toNat), ("offset", off.toNat)]
  | .getConfig => []
  | .decode spl n => [("spl", spl.toNat), ("out_len", n.toNat)]

/-- The listing line of an operation, its operands as `name=value` pairs separated by commas, numbers in
decimal (R82). -/
def Instr.listing (i : Instr) : String :=
  match i.listingOperands with
  | [] => i.opcode.mnemonic
  | ops => i.opcode.mnemonic ++ " " ++ ", ".intercalate (ops.map fun o => o.1 ++ "=" ++ toString o.2)

/-- `BUILD_PROFILE` with no tolerance given: the default argument (R83). -/
def pseudoBuildProfile (t1 t2 t3 ru : Word) : Instr := .buildProfile true t1 t2 t3 ru 0

/-- `CONFIGURE cfg` with no capacity given (R83). -/
def pseudoConfigure (spl : Bool) (bc lo hi sk : Word) : Instr := .configure false spl bc lo hi sk 0

/-- `CONFIGURE cfg, capacity=c` (R83). -/
def pseudoConfigureCapacity (spl : Bool) (bc lo hi sk c : Word) : Instr := .configure true spl bc lo hi sk c

/-! ### Table words

A row's bits are numbered from bit 0 of the header; later words' bits count on from it. Words move
whole (R52, D30), so no byte order enters. -/

/-- The packet whose words are the bits of `w`, bits at and above `nbits` zero: as many words as the
opcode asks for, or as `nbits` covers when that is more (log entry 9). -/
def tablePacket (nbits w : Nat) : Packet :=
  let v := w % 2 ^ nbits
  let h : Word := BitVec.ofNat 32 v
  let asked := match Opcode.ofByte? (headerOpcode h) with
    | some o => o.operandCount
    | none => 0
  let n := max asked ((nbits + 31) / 32 - 1)
  ⟨h, (List.range n).map fun j => BitVec.ofNat 32 (v / 2 ^ (32 * (j + 1)))⟩

/-- The instruction the decoder reads from a table word. -/
def decodeTableWord (nbits w : Nat) : Option Instr :=
  match decode (tablePacket nbits w) with
  | .ok i => some i
  | .error _ => none

end Sys2Proof
end

