-- ==== Sys2Proof/Config.lean ====
section
/-! DEFINITION. What one implementation of the block fixes (`00_scope.md` R7). -/

namespace Sys2Proof.Config

/-- The value `State.reset` gives the parameter `CAP_MAX`, which the spec leaves OPEN (R7, D26).
DESIGN CHOICE, log entry 3: the test vectors of the spec are computed with 64.
Every statement is about every value of the field `State.capMax`, never about this one. -/
def resetCapMax : Word := 64

end Sys2Proof.Config
end

