-- ==== Sys2Proof/Machine/State.lean ====
section
/-! DEFINITION. The state of the block as plain data (`10_state.md` R20 to R31), its reset value, and the
reasons a step can stop. The types of `00_scope.md` R10 and the command and response streams of
`30_encoding.md` R70 stand here too. -/

namespace Sys2Proof.Machine

/-- One transition interval: polarity and duration (R10, R28). -/
structure Edge where
  isHigh     : Bool
  durationNs : Duration
  deriving DecidableEq, Repr

/-- The chipset's nominal timing, `ChipsetTiming3Phase` without its name (R10). A parameter of
`BUILD_PROFILE`, not state (R32). -/
structure Nominal where
  t1Ns    : Word
  t2Ns    : Word
  t3Ns    : Word
  resetUs : Word
  deriving DecidableEq, Repr

/-- The timing profile, ten 32-bit fields in the source's order (R10, R25). -/
structure Profile where
  bit0HighMinNs  : Word
  bit0HighMaxNs  : Word
  bit0LowMinNs   : Word
  bit0LowMaxNs   : Word
  bit1HighMinNs  : Word
  bit1HighMaxNs  : Word
  bit1LowMinNs   : Word
  bit1LowMaxNs   : Word
  resetMinUs     : Word
  gapToleranceNs : Word
  deriving DecidableEq, Repr

/-- The stored capture policy, the source's `RxConfig` (R10, R24). -/
structure RxConfig where
  bufferCapacity   : Word
  signalRangeMinNs : Word
  signalRangeMaxNs : Word
  skipSignals      : Word
  startPolarityLow : Bool
  deriving DecidableEq, Repr

/-- The edge store `EDGE`: (slot, word) pairs, slots strictly rising (R27, R50). A slot that is not
listed holds no value (`93_implementation_defined.md` U5; log entries 4 and 5). -/
abbrev Memory := List (Nat × Word)

/-- The status codes of R74. -/
inductive Status where
  | ok | highErrorRate | bufferOverflow | invalidArgument | illegalCommand
  deriving DecidableEq, Repr

/-- What follows the result words of a response (R70, R75, R81). -/
inductive Payload where
  | none
  | edges (words : List Word)
  | bytes (bytes : List Byte)
  deriving DecidableEq, Repr

/-- One response: the status word `S`, the result words `R1 .. Rr`, the payload (R70, R75). -/
structure Response where
  status  : Word
  results : List Word
  payload : Payload
  deriving DecidableEq, Repr

/-- What the environment presents to the block next (R57, R70, R200). -/
inductive Event where
  /-- One command packet. -/
  | command (p : Packet)
  /-- The reset input `RST`, between two operations (R200; log entry 8). -/
  | hardwareReset
  /-- Two packets at the same instant, which the spec gives no meaning (U4, R206; log entry 7). -/
  | overlap (p q : Packet)
  deriving DecidableEq, Repr

/-- Why the machine stops. Both are raised by the edge-store accesses of Machine/Ops.lean, only in states
that break the invariant of R120, which no run reaches (R55, R56; log entry 6). Safe: a stop proves
nothing about the hardware's next state. -/
inductive Fault where
  /-- An access names a slot at or above `CAP_MAX`: `MemRead` and `MemWrite` "are defined only for
  `i + n <= CAP_MAX`" (R9). Raised by `readSlot` and `memWrite`; safe. -/
  | slotOutsideStore (slot : Nat)
  /-- A read names a slot that holds no value (U5). Raised by `readSlot`; safe. -/
  | slotHoldsNoValue (slot : Nat)
  deriving DecidableEq, Repr

/-- What the model gives no meaning. -/
inductive Refusal where
  /-- An operation without a meaning yet; raised by `exec` only. Safe. No arm uses it. -/
  | notModelled (mnemonic : String)
  /-- Two commands at once: "`refuse`: the model has one serial command stream and gives overlapping
  commands no meaning" (U4). Raised by `step` on `Event.overlap`; safe. -/
  | overlappingCommands
  deriving DecidableEq, Repr

/-- The state of the block (R20), the parameter `CAP_MAX`, and the two streams of its ports. -/
structure State where
  /-- `COUNT`: edges stored (R21). -/
  count     : Word
  /-- `CAPACITY`: slots in use (R21, R122). -/
  capacity  : Word
  /-- `FINISHED`: capture complete or overflowed (R23). -/
  finished  : Bool
  /-- `CFG` (R24). -/
  cfg       : RxConfig
  /-- `PROF` (R25). -/
  prof      : Profile
  /-- `EDGE` (R27). -/
  edge      : Memory
  /-- The parameter `CAP_MAX` (R7): the model's own field, no step changes it (log entry 3). -/
  capMax    : Word
  /-- Events not yet taken, next first: the model's own field (R57; log entry 1). -/
  inbox     : List Event
  /-- Responses delivered, oldest first: the model's own field (R70; log entry 2). -/
  responses : List Response
  deriving DecidableEq, Repr

/-- The profile of hardware reset, all ten fields 0 (R31). -/
def Profile.zero : Profile := ⟨0, 0, 0, 0, 0, 0, 0, 0, 0, 0⟩

/-- The configuration of hardware reset (R31). -/
def RxConfig.zero : RxConfig := ⟨0, 0, 0, 0, false⟩

/-- The block right after hardware reset (R31, R200), with no event presented and no response given
(log entries 1 to 3). -/
def State.reset : State where
  count     := 0
  capacity  := 0
  finished  := false
  cfg       := .zero
  prof      := .zero
  edge      := []
  capMax    := Config.resetCapMax
  inbox     := []
  responses := []

end Sys2Proof.Machine
end

