-- ==== Sys2Proof/Machine/Ops.lean ====
section
/-! DEFINITION. The named operations every meaning is built from: arithmetic that saturates (`00_scope.md`
R8), the edge word (`20_memory.md` R51), the edge store (R9, R50), updates of the state, and answering a
command, with success or with an error (`30_encoding.md` R74, R75; `60_exceptions.md` R186). -/

namespace Sys2Proof.Machine

/-! ### Arithmetic -/

/-- `sat32(x) = min(x, 2^32-1)` (R8). -/
def sat32 (x : Nat) : Word := BitVec.ofNat 32 (min x (2 ^ 32 - 1))

/-- A sum "exact in 33 bits, then `sat32`" (R106). -/
def satAdd (a b : Word) : Word := sat32 (a.toNat + b.toNat)

/-- `(v > tol) ? (v - tol) : 0` (R101). -/
def clampSub (v tol : Word) : Word := if tol < v then v - tol else 0

/-- `zext_32` of a boolean (R131, R134). -/
def boolWord (b : Bool) : Word := if b then 1 else 0

/-! ### The edge word (R51) -/

def pack (e : Edge) : Word := BitVec.ofNat 32 ((if e.isHigh then 2 ^ 31 else 0) + e.durationNs.toNat)
def unpack (w : Word) : Edge := ⟨w.getLsbD 31, w.extractLsb' 0 31⟩

/-! ### The edge store (R9, R27, R50) -/

/-- The canonical form: slots strictly rising. No entry equals what an unlisted slot reads as, because
an unlisted slot holds no value. -/
abbrev Memory.wf (m : Memory) : Prop := m.Pairwise fun x y => x.1 < y.1

/-- The word in a slot, if the slot holds one. -/
def Memory.read : Memory → Nat → Option Word
  | [], _ => none
  | (b, v) :: m, a => if a = b then some v else Memory.read m a

/-- `EDGE[a] <- w`, keeping the canonical form. -/
def Memory.write : Memory → Nat → Word → Memory
  | [], a, w => [(a, w)]
  | (b, v) :: m, a, w =>
    if a < b then (a, w) :: (b, v) :: m
    else if a = b then (a, w) :: m
    else (b, v) :: Memory.write m a w

/-- One slot read: slots outside the store do not exist (R55), slots without a value cannot be read (U5). -/
def readSlot (m : Memory) (capMax : Word) (i : Nat) : Except Fault Word :=
  if i < capMax.toNat then
    match m.read i with
    | some w => .ok w
    | none => .error (.slotHoldsNoValue i)
  else .error (.slotOutsideStore i)

/-- `MemRead(i, n)`: `EDGE[i], ..., EDGE[i+n-1]` in that order (R9). No slot is read when `n = 0`. -/
def memRead (m : Memory) (capMax : Word) (i : Nat) : Nat → Except Fault (List Word)
  | 0 => .ok []
  | n + 1 =>
    match readSlot m capMax i with
    | .error f => .error f
    | .ok w =>
      match memRead m capMax (i + 1) n with
      | .error f => .error f
      | .ok ws => .ok (w :: ws)

/-- `MemWrite(i, 1, w)` (R9). -/
def memWrite (m : Memory) (capMax : Word) (i : Nat) (w : Word) : Except Fault Memory :=
  if i < capMax.toNat then .ok (m.write i w) else .error (.slotOutsideStore i)

/-! ### Updates -/

def State.setCount (s : State) (c : Word) : State := { s with count := c }
def State.setCapacity (s : State) (c : Word) : State := { s with capacity := c }
def State.setFinished (s : State) (b : Bool) : State := { s with finished := b }
def State.setCfg (s : State) (c : RxConfig) : State := { s with cfg := c }
def State.setProf (s : State) (p : Profile) : State := { s with prof := p }
def State.setGapTolerance (s : State) (g : Word) : State :=
  { s with prof := { s.prof with gapToleranceNs := g } }
def State.setEdge (s : State) (m : Memory) : State := { s with edge := m }
def State.setInbox (s : State) (q : List Event) : State := { s with inbox := q }

/-- "resets to empty": `COUNT <- 0`, `FINISHED <- false`, the edges discarded (R121, R129, D15). The
discarded words are not kept (U5; log entry 4). -/
def State.emptyBuffer (s : State) : State := { s with count := 0, finished := false, edge := [] }

/-- Hardware reset `RST` (R200): everything of `S` cleared. The parameter `CAP_MAX` and the ports'
streams are not part of `S` (log entry 8). -/
def State.hardwareReset (s : State) : State :=
  { s with count := 0, capacity := 0, finished := false, cfg := .zero, prof := .zero, edge := [] }

/-! ### Answering -/

/-- The status code numbers (R74). -/
def Status.code : Status → BitVec 4
  | .ok              => 0
  | .highErrorRate   => 1
  | .bufferOverflow  => 2
  | .invalidArgument => 3
  | .illegalCommand  => 15

/-- The status word: `S[3:0] = code`, `S[31:4] = 0` (R71, R74). -/
def Status.word (st : Status) : Word := st.code.setWidth 32

/-- One response leaves the block (R70). -/
def State.respond (s : State) (r : Response) : State := { s with responses := s.responses ++ [r] }

/-- The state after an operation that ends with status `OK`, its result words and payload (R9 `return`, R75). -/
def State.answer (s : State) (results : List Word) (payload : Payload) : State :=
  s.respond ⟨Status.ok.word, results, payload⟩

/-- The state after an operation that ends in an error: "delivered as the status word of the response to
the command that caused it, and as nothing else: no state is saved, no mode or mask changes, no stack is
used, control goes nowhere" (R9 `raise`, R75, R186). There is no return from it (R188). -/
def State.raise (s : State) (e : Status) : State := s.respond ⟨e.word, [], .none⟩

end Sys2Proof.Machine
end

