-- ==== Sys2Proof/Machine/Operands.lean ====
section
/-! DEFINITION. How each argument of an operation is assembled from its flags and operand words
(`30_encoding.md` R73, R76, R80). -/

namespace Sys2Proof.Machine

/-- The source's default argument "`tolerance_ns: u32 = 150`" (R7, R76). -/
def defaultToleranceNs : Word := 150

/-- The effective tolerance of `BUILD_PROFILE`: `dt == 1 ? 150 : W5` (R80, R103). -/
def effectiveTolerance (dt : Bool) (w5 : Word) : Word := if dt then defaultToleranceNs else w5

/-- The requested capacity of `CONFIGURE`: `ovr == 1 ? W5 : W1` (R80, R121). -/
def requestedCapacity (ovr : Bool) (w1 w5 : Word) : Word := if ovr then w5 else w1

/-- `CAPACITY = min(requested, CAP_MAX)` (R122). -/
def effectiveCapacity (requested capMax : Word) : Word := if requested < capMax then requested else capMax

/-- `min(W1, 2^31-1)`: over-range durations saturate and never wrap (R125). -/
def saturateDuration (w : Word) : Duration := BitVec.ofNat 31 (min w.toNat (2 ^ 31 - 1))

/-- The edge `PUSH_EDGE` appends: the polarity from the flag alone (R80, R124). -/
def pushedEdge (hi : Bool) (durationNs : Word) : Edge := ⟨hi, saturateDuration durationNs⟩

/-- How many edges `GET_RAW_EDGES` copies: `min(max_n, avail)`, `avail` clamped at 0 (R133, D16). -/
def copiedEdges (count maxN offset : Word) : Nat :=
  min maxN.toNat (if offset < count then count.toNat - offset.toNat else 0)

end Sys2Proof.Machine
end

