-- ==== Sys2Proof/Machine/Builder.lean ====
section
/-! DEFINITION. The timing profile builder: `BUILD_PROFILE`, `SET_GAP_TOLERANCE`, `GET_PROFILE`
(`40_profile_builder.md`). -/

namespace Sys2Proof.Machine

/-! ### The arithmetic (R100 to R102) -/

def bit0HighNominal (n : Nominal) : Word := n.t1Ns
def bit0LowNominal (n : Nominal) : Word := satAdd n.t2Ns n.t3Ns
def bit1HighNominal (n : Nominal) : Word := satAdd n.t1Ns n.t2Ns
def bit1LowNominal (n : Nominal) : Word := n.t3Ns

def windowMin (v tol : Word) : Word := clampSub v tol
def windowMax (v tol : Word) : Word := satAdd v tol

/-- "`gap_tolerance_ns` left at caller-assigned default (0)" (R102). -/
def defaultGapToleranceNs : Word := 0

/-- `build_profile(nominal, tol)` (R102). -/
def buildProfile (n : Nominal) (tol : Word) : Profile where
  bit0HighMinNs  := windowMin (bit0HighNominal n) tol
  bit0HighMaxNs  := windowMax (bit0HighNominal n) tol
  bit0LowMinNs   := windowMin (bit0LowNominal n) tol
  bit0LowMaxNs   := windowMax (bit0LowNominal n) tol
  bit1HighMinNs  := windowMin (bit1HighNominal n) tol
  bit1HighMaxNs  := windowMax (bit1HighNominal n) tol
  bit1LowMinNs   := windowMin (bit1LowNominal n) tol
  bit1LowMaxNs   := windowMax (bit1LowNominal n) tol
  resetMinUs     := n.resetUs
  gapToleranceNs := defaultGapToleranceNs

/-- The ten fields in the order of R25, the result words `R1..R10` (R75). -/
def Profile.words (p : Profile) : List Word :=
  [p.bit0HighMinNs, p.bit0HighMaxNs, p.bit0LowMinNs, p.bit0LowMaxNs,
   p.bit1HighMinNs, p.bit1HighMaxNs, p.bit1LowMinNs, p.bit1LowMaxNs, p.resetMinUs, p.gapToleranceNs]

/-! ### The operations -/

/-- `BUILD_PROFILE` (R103). -/
def execBuildProfile (dt : Bool) (t1 t2 t3 ru tol : Word) (s : State) : Host.Outcome State Fault Refusal :=
  let p := buildProfile ⟨t1, t2, t3, ru⟩ (effectiveTolerance dt tol)
  .next ((s.setProf p).answer p.words .none)

/-- `SET_GAP_TOLERANCE` (R104). -/
def execSetGapTolerance (g : Word) (s : State) : Host.Outcome State Fault Refusal :=
  .next ((s.setGapTolerance g).answer [] .none)

/-- `GET_PROFILE` (R105). -/
def execGetProfile (s : State) : Host.Outcome State Fault Refusal :=
  .next (s.answer s.prof.words .none)

end Sys2Proof.Machine
end

