-- ==== Sys2Proof/Machine/Flags.lean ====
section
/-! DEFINITION. The one status flag, `FINISHED`, and the output that follows it (`10_state.md` R23,
`60_exceptions.md` R189). There are no condition codes. -/

namespace Sys2Proof.Machine

/-- `PUSH_EDGE` is accepted exactly when `COUNT < CAPACITY`; `FINISHED` is not consulted (R124, R127). -/
def State.hasRoom (s : State) : Bool := s.count < s.capacity

/-- `FINISHED <- true`: by `FINISH` (R128) and by a rejected push (R126). -/
def State.setsFinished (s : State) : State := s.setFinished true

/-- The level output `finished`, "equal to the flag `FINISHED` at all times" (R189). -/
def State.finishedOutput (s : State) : Bool := s.finished

end Sys2Proof.Machine
end

