-- ==== Sys2Proof/Machine/Capture.lean ====
section
/-! DEFINITION. The capture buffer: `CONFIGURE`, `PUSH_EDGE`, `FINISH`, `BUF_RESET` and the observers
(`41_capture_buffer.md`). -/

namespace Sys2Proof.Machine

/-- `CONFIGURE` (R121, R122): the supplied configuration is stored verbatim (D34). -/
def execConfigure (ovr spl : Bool) (bc lo hi sk oc : Word) (s : State) : Host.Outcome State Fault Refusal :=
  let cap := effectiveCapacity (requestedCapacity ovr bc oc) s.capMax
  .next ((((s.setCfg ⟨bc, lo, hi, sk, spl⟩).setCapacity cap).emptyBuffer).answer [] .none)

/-- `PUSH_EDGE`: appended while there is room (R124, R125), else rejected with `FINISHED` set (R126). -/
def execPushEdge (hi : Bool) (d : Word) (s : State) : Host.Outcome State Fault Refusal :=
  if s.hasRoom then
    match memWrite s.edge s.capMax s.count.toNat (pack (pushedEdge hi d)) with
    | .error f => .fault f
    | .ok m => .next (((s.setEdge m).setCount (s.count + 1)).answer [boolWord true] .none)
  else .next (s.setsFinished.answer [boolWord false] .none)

/-- `FINISH` (R128). -/
def execFinish (s : State) : Host.Outcome State Fault Refusal :=
  .next (s.setsFinished.answer [] .none)

/-- `BUF_RESET` (R129). -/
def execBufReset (s : State) : Host.Outcome State Fault Refusal :=
  .next (s.emptyBuffer.answer [] .none)

/-- `EDGE_COUNT` (R130). -/
def execEdgeCount (s : State) : Host.Outcome State Fault Refusal :=
  .next (s.answer [s.count] .none)

/-- `IS_FINISHED` (R131). -/
def execIsFinished (s : State) : Host.Outcome State Fault Refusal :=
  .next (s.answer [boolWord s.finished] .none)

/-- `BUFFER_CAPACITY` (R132). -/
def execBufferCapacity (s : State) : Host.Outcome State Fault Refusal :=
  .next (s.answer [s.capacity] .none)

/-- `GET_RAW_EDGES` (R133). -/
def execGetRawEdges (maxN offset : Word) (s : State) : Host.Outcome State Fault Refusal :=
  let n := copiedEdges s.count maxN offset
  match memRead s.edge s.capMax offset.toNat n with
  | .error f => .fault f
  | .ok ws => .next (s.answer [BitVec.ofNat 32 n] (.edges ws))

/-- The five result words of `GET_CONFIG` (R75, R134). -/
def RxConfig.words (c : RxConfig) : List Word :=
  [c.bufferCapacity, c.signalRangeMinNs, c.signalRangeMaxNs, c.skipSignals, boolWord c.startPolarityLow]

/-- `GET_CONFIG` (R134). -/
def execGetConfig (s : State) : Host.Outcome State Fault Refusal :=
  .next (s.answer s.cfg.words .none)

end Sys2Proof.Machine
end

