-- ==== Sys2Proof/Machine/Decoder.lean ====
section
/-! DEFINITION. The decoder: alignment, threshold comparator, bit-phase accumulator, capacity check, and the
operation `DECODE` (`42_decoder.md`). The cursor form of R163 stands in Machine/DecoderCursor.lean. -/

namespace Sys2Proof.Machine

/-- The classes of a pair (R156). -/
inductive PairClass where
  | bit0 | bit1 | gap | stop
  deriving DecidableEq, Repr

/-- The source's `DecodeError` (R10, R180). -/
inductive DecodeError where
  | highErrorRate | bufferOverflow | invalidArgument
  deriving DecidableEq, Repr

/-- `Ok(N, bytes)` with `N` the length of `bytes`, or `Err(e)` (R10, R150). -/
inductive DecodeResult where
  | ok (bytes : List Byte)
  | err (e : DecodeError)
  deriving DecidableEq, Repr

/-- The transients of one `DECODE`: the bit-phase accumulator, its fill count (0 to 7) and the completed
bytes (R29, R158; log entry 10). -/
structure Accumulator where
  acc   : Byte
  nbits : Nat
  bytes : List Byte
  deriving DecidableEq, Repr

/-! ### Threshold comparator (R155 to R157) -/

/-- `d in [lo, hi]`, both bounds inclusive (R8, R155, D6). -/
def inWindow (lo hi : Word) (d : Duration) : Bool := lo.toNat ≤ d.toNat && d.toNat ≤ hi.toNat

def matchesBit0 (p : Profile) (h l : Duration) : Bool :=
  inWindow p.bit0HighMinNs p.bit0HighMaxNs h && inWindow p.bit0LowMinNs p.bit0LowMaxNs l

def matchesBit1 (p : Profile) (h l : Duration) : Bool :=
  inWindow p.bit1HighMinNs p.bit1HighMaxNs h && inWindow p.bit1LowMinNs p.bit1LowMaxNs l

/-- Nanoseconds in a microsecond (R7; general knowledge of the spec's, GK1; log entry 11). -/
def usToNs : Nat := 1000

/-- The gap rule; the product is exact (R157, D5). -/
def matchesGap (p : Profile) (l : Duration) : Bool :=
  0 < p.gapToleranceNs.toNat && p.resetMinUs.toNat * usToNs < l.toNat && l.toNat < p.gapToleranceNs.toNat

/-- The priority of the classes (R156, D7). -/
def classify (p : Profile) (h l : Duration) : PairClass :=
  if matchesBit0 p h l then .bit0
  else if matchesBit1 p h l then .bit1
  else if matchesGap p l then .gap
  else .stop

/-! ### Bit-phase accumulator (R158) -/

def Accumulator.empty : Accumulator := ⟨0, 0, []⟩

/-- `acc[6:0] ++ b`: shift left by one, the new bit enters at bit 0 (R158). -/
def shiftBit (acc : Byte) (b : Bool) : Byte := acc <<< 1 ||| (if b then 1 else 0)

/-- One decoded bit enters at bit 0; the eighth completes a byte (R158). -/
def Accumulator.shiftIn (a : Accumulator) (b : Bool) : Accumulator :=
  let acc := shiftBit a.acc b
  if a.nbits + 1 = 8 then ⟨0, 0, a.bytes ++ [acc]⟩ else ⟨acc, a.nbits + 1, a.bytes⟩

/-! ### The function (R150, R152 to R163) -/

/-- The edges from the aligned index on: everything before the first edge whose polarity bit equals
`spl` is discarded (R153). -/
def alignEdges (spl : Bool) (es : List Edge) : List Edge := es.dropWhile fun e => e.isHigh != spl

/-- The pair loop: edges two at a time, by position (R154), until a `STOP` pair (R159) or fewer than two
edges remain (R160). -/
def decodePairs (p : Profile) : List Edge → Accumulator → Accumulator
  | first :: second :: rest, a =>
    match classify p first.durationNs second.durationNs with
    | .stop => a
    | .bit0 => decodePairs p rest (a.shiftIn false)
    | .bit1 => decodePairs p rest (a.shiftIn true)
    | .gap  => decodePairs p rest a
  | _, a => a

/-- The bytes completed by steps 2 to 4, without regard to the output size: the "true decoded length" of
R161 is the length of this list. -/
def decodedBytes (es : List Edge) (p : Profile) (spl : Bool) : List Byte :=
  (decodePairs p (alignEdges spl es) .empty).bytes

/-- `decode(E, P, spl, out_len)` (R150, R163), its tests in the order of R187. -/
def decodeEdges (es : List Edge) (p : Profile) (spl : Bool) (outLen : Word) : DecodeResult :=
  if es.isEmpty then .err .invalidArgument
  else if (alignEdges spl es).isEmpty then .ok []
  else if outLen.toNat < (decodedBytes es p spl).length then .err .bufferOverflow
  else .ok (decodedBytes es p spl)

/-! ### The operation -/

/-- The status of each error kind (R74). -/
def DecodeError.status : DecodeError → Status
  | .highErrorRate   => .highErrorRate
  | .bufferOverflow  => .bufferOverflow
  | .invalidArgument => .invalidArgument

/-- `DECODE` (R151): on the valid region of the store and the stored profile (D20). -/
def execDecode (spl : Bool) (outLen : Word) (s : State) : Host.Outcome State Fault Refusal :=
  match memRead s.edge s.capMax 0 s.count.toNat with
  | .error f => .fault f
  | .ok ws =>
    match decodeEdges (ws.map unpack) s.prof spl outLen with
    | .ok bytes => .next (s.answer [BitVec.ofNat 32 bytes.length] (.bytes bytes))
    | .err e => .next (s.raise e.status)

end Sys2Proof.Machine
end

