-- ==== Sys2Proof/Machine/Dispatch.lean ====
section
/-! DEFINITION. One arm per operation of the opcode table (`30_encoding.md` R72). -/

namespace Sys2Proof.Machine

def exec (i : Instr) (s : State) : Host.Outcome State Fault Refusal :=
  match i with
  | .buildProfile dt t1 t2 t3 ru tol => Sys2Proof.Machine.execBuildProfile dt t1 t2 t3 ru tol s
  | .setGapTolerance g => Sys2Proof.Machine.execSetGapTolerance g s
  | .getProfile => Sys2Proof.Machine.execGetProfile s
  | .configure ovr spl bc lo hi sk oc => Sys2Proof.Machine.execConfigure ovr spl bc lo hi sk oc s
  | .pushEdge hi d => Sys2Proof.Machine.execPushEdge hi d s
  | .finish => Sys2Proof.Machine.execFinish s
  | .bufReset => Sys2Proof.Machine.execBufReset s
  | .edgeCount => Sys2Proof.Machine.execEdgeCount s
  | .isFinished => Sys2Proof.Machine.execIsFinished s
  | .bufferCapacity => Sys2Proof.Machine.execBufferCapacity s
  | .getRawEdges n off => Sys2Proof.Machine.execGetRawEdges n off s
  | .getConfig => Sys2Proof.Machine.execGetConfig s
  | .decode spl n => Sys2Proof.Machine.execDecode spl n s

end Sys2Proof.Machine
end

