-- ==== Sys2Proof/Machine/Step.lean ====
section
/-! DEFINITION. One step: the next event of the stream, taken whole (`20_memory.md` R57). -/

namespace Sys2Proof.Machine

/-- Takes the next event. A legal command runs (R57, R70); an illegal one is answered `ILLEGAL_COMMAND`
with no other effect (R77, R185); `RST` clears the block (R200); two commands at once have no meaning
(U4); with nothing presented the block "is idle and holds its state" (R195). -/
def step (s : State) : Host.Outcome State Fault Refusal :=
  match s.inbox with
  | [] => .next s
  | .command p :: rest =>
    match decode p with
    | .ok i => exec i (s.setInbox rest)
    | .error _ => .next ((s.setInbox rest).raise .illegalCommand)
  | .hardwareReset :: rest => .next (s.setInbox rest).hardwareReset
  | .overlap _ _ :: _ => .refused .overlappingCommands

/-- `s` with the table word's packet presented as the very next event (log entries 1 and 9). -/
def State.withFetchWord (s : State) (nbits w : Nat) : State :=
  s.setInbox (.command (tablePacket nbits w) :: s.inbox)

end Sys2Proof.Machine
end

