-- ==== Sys2Proof/Machine/DecoderCursor.lean ====
section
/-! DEFINITION. `decode` as the normative pseudocode of `42_decoder.md` R163 writes it: a cursor into the
edges, a loop, a byte count of its own. `exec` uses the list form of Machine/Decoder.lean; that the two
agree is a statement. -/

namespace Sys2Proof.Machine

/-- The `while` loop of R163. `fuel` bounds the rounds; the loop runs at most once for every two edges
(R166), so the number of edges is enough. -/
def cursorLoop (es : List Edge) (p : Profile) :
    (fuel i : Nat) → (acc : Byte) → (nbits : Nat) → (bytes : List Byte) → (n : Nat) → List Byte × Nat
  | 0, _, _, _, bytes, n => (bytes, n)
  | fuel + 1, i, acc, nbits, bytes, n =>
    match es[i]?, es[i + 1]? with
    | some first, some second =>
      match classify p first.durationNs second.durationNs with
      | .stop => (bytes, n)
      | .gap  => cursorLoop es p fuel (i + 2) acc nbits bytes n
      | .bit0 =>
        if nbits + 1 = 8 then cursorLoop es p fuel (i + 2) 0 0 (bytes ++ [shiftBit acc false]) (n + 1)
        else cursorLoop es p fuel (i + 2) (shiftBit acc false) (nbits + 1) bytes n
      | .bit1 =>
        if nbits + 1 = 8 then cursorLoop es p fuel (i + 2) 0 0 (bytes ++ [shiftBit acc true]) (n + 1)
        else cursorLoop es p fuel (i + 2) (shiftBit acc true) (nbits + 1) bytes n
    | _, _ => (bytes, n)

/-- R163 line by line. -/
def decodeByCursor (es : List Edge) (p : Profile) (spl : Bool) (outLen : Word) : DecodeResult :=
  if es.length = 0 then .err .invalidArgument
  else
    match es.findIdx? fun e => e.isHigh == spl with
    | none => .ok []
    | some a =>
      let r := cursorLoop es p es.length a 0 0 [] 0
      if outLen.toNat < r.2 then .err .bufferOverflow else .ok r.1

end Sys2Proof.Machine
end

