-- ==== Sys2Proof/Machine/Pseudo.lean ====
section
/-! DEFINITION. The pseudo-operations that stand for the pushes of a nominal bit and of a byte
(`30_encoding.md` R83), and the edges such pushes store. -/

namespace Sys2Proof.Machine

/-- `PUSH_BIT1` / `PUSH_BIT0` for a nominal timing (R83, R100). -/
def pushBit (n : Nominal) (b : Bool) : List Instr :=
  if b then [.pushEdge true (bit1HighNominal n), .pushEdge false (bit1LowNominal n)]
  else [.pushEdge true (bit0HighNominal n), .pushEdge false (bit0LowNominal n)]

/-- The bits 7 down to 0 of a byte, the first to arrive first (R52, R83). -/
def bitsMsbFirst (b : Byte) : List Bool := [7, 6, 5, 4, 3, 2, 1, 0].map b.getLsbD

/-- `PUSH_BYTE b` (R83). -/
def pushByte (n : Nominal) (b : Byte) : List Instr := (bitsMsbFirst b).flatMap (pushBit n)

/-- The edges `pushBit` stores. -/
def bitEdges (n : Nominal) (b : Bool) : List Edge :=
  if b then [pushedEdge true (bit1HighNominal n), pushedEdge false (bit1LowNominal n)]
  else [pushedEdge true (bit0HighNominal n), pushedEdge false (bit0LowNominal n)]

/-- The edges that send a list of bytes, first byte first: `ENC` of `95_test_vectors.md`. -/
def bytesEdges (n : Nominal) (bs : List Byte) : List Edge :=
  bs.flatMap fun b => (bitsMsbFirst b).flatMap (bitEdges n)

end Sys2Proof.Machine
end

