-- ==== Sys2Proof/Safety.lean ====
section
/-! DEFINITION. What every reachable state satisfies (`10_state.md` R21, R26; `41_capture_buffer.md` R120),
and the environment's duties that can be told from one command (`70_reset_and_hazards.md` R204, R205, R208). -/

namespace Sys2Proof.Machine

/-- The profile invariant: every window has `min <= max` (R26). -/
abbrev Profile.windowsOrdered (p : Profile) : Prop :=
  p.bit0HighMinNs ≤ p.bit0HighMaxNs ∧ p.bit0LowMinNs ≤ p.bit0LowMaxNs ∧
  p.bit1HighMinNs ≤ p.bit1HighMaxNs ∧ p.bit1LowMinNs ≤ p.bit1LowMaxNs

/-- The buffer invariant: `COUNT <= CAPACITY <= CAP_MAX`, and the slots that hold a value are exactly
`0 .. COUNT-1`, listed in order (R21, R27, R120; that other slots hold no value is log entry 4, the list of
words by slot log entry 5). -/
abbrev State.bufferInv (s : State) : Prop :=
  s.count ≤ s.capacity ∧ s.capacity ≤ s.capMax ∧ s.edge.map Prod.fst = List.range s.count.toNat

/-- The invariant every step keeps: the buffer's, the profile's, and the store's canonical form. -/
abbrev State.Inv (s : State) : Prop :=
  s.bufferInv ∧ s.prof.windowsOrdered ∧ s.edge.wf

/-- The environment keeps its duties when it issues `i` in state `s`: durations within 31 bits (R205), no
push after completion (R208), capture quiesced before `DECODE` and `GET_RAW_EDGES` (`20_memory.md` R58,
R204), told here by `FINISHED` (log entry 14). The block enforces none of them. -/
def dutyKept (i : Instr) (s : State) : Bool :=
  match i with
  | .pushEdge _ d => d.toNat < 2 ^ 31 && !s.finished
  | .decode _ _ => s.finished
  | .buildProfile _ _ _ _ _ _ => true
  | .setGapTolerance _ => true
  | .getProfile => true
  | .configure _ _ _ _ _ _ _ => true
  | .finish => true
  | .bufReset => true
  | .edgeCount => true
  | .isFinished => true
  | .bufferCapacity => true
  | .getRawEdges _ _ => s.finished
  | .getConfig => true

end Sys2Proof.Machine
end

