-- ==== Sys2Proof/Certificates/Slice0/Obligations.lean ====
section
/-! DEFINITION. The statements for the provers. Status words are written as numbers: 0 `OK`, 2 `BufferOverflow`,
3 `InvalidArgument`, 15 `ILLEGAL_COMMAND` (`30_encoding.md` R74). -/

namespace Sys2Proof.Claims

open Sys2Proof.Machine

/-- R77 in its own words, on the header's fields as numbers: opcode `H / 2^24`, the `zero`
field, flags `H % 2^8`. -/
def IllegalCommand (p : Packet) : Prop :=
  let op := p.header.toNat / 2 ^ 24
  let middle := p.header.toNat / 2 ^ 8 % 2 ^ 16
  let flags := p.header.toNat % 2 ^ 8
  let oneFlag := op = 0x10 ∨ op = 0x02 ∨ op = 0x20
  op ∉ [0x10, 0x11, 0x12, 0x01, 0x02, 0x03, 0x04, 0x05, 0x06, 0x07, 0x08, 0x09, 0x20] ∨
  middle ≠ 0 ∨
  (oneFlag ∧ 0b1 < flags) ∨ (op = 0x01 ∧ 0b11 < flags) ∨ (¬ oneFlag ∧ op ≠ 0x01 ∧ 0 < flags) ∨
  p.operands.length ≠
    (if op = 0x10 ∨ op = 0x01 then 5 else if op = 0x08 then 2
     else if op = 0x11 ∨ op = 0x02 ∨ op = 0x20 then 1 else 0)

/-- The next event is a command that decodes to `i`. -/
def Presents (s : State) (i : Instr) : Prop :=
  ∃ p rest, s.inbox = .command p :: rest ∧ decode p = .ok i

/-- The next event discards the edges: hardware reset, `CONFIGURE` or `BUF_RESET` (R201). -/
def PresentsClear (s : State) : Prop :=
  (∃ rest, s.inbox = .hardwareReset :: rest) ∨
    ∃ i, Presents s i ∧ (i.opcode = .configure ∨ i.opcode = .bufReset)

/-- The responses a step added. -/
def newResponses (s t : State) : List Response := t.responses.drop s.responses.length

/-- What `FINISHED` is after the next event (R23). -/
def finishedAfter (s : State) : Bool :=
  match s.inbox with
  | [] => s.finished
  | .hardwareReset :: _ => false
  | .overlap _ _ :: _ => s.finished
  | .command p :: _ =>
    match decode p with
    | .error _ => s.finished
    | .ok i =>
      match i.opcode with
      | .finish => true
      | .pushEdge => s.finished || !(s.count < s.capacity : Bool)
      | .configure => false
      | .bufReset => false
      | _ => s.finished

/-- The number `r` of result words of each operation (R75). -/
def resultCount : Opcode → Nat
  | .buildProfile => 10
  | .getProfile => 10
  | .getConfig => 5
  | .setGapTolerance => 0
  | .configure => 0
  | .finish => 0
  | .bufReset => 0
  | .pushEdge => 1
  | .edgeCount => 1
  | .isFinished => 1
  | .bufferCapacity => 1
  | .getRawEdges => 1
  | .decode => 1

/-- The edges in the valid region, in order of arrival (R27, R151). -/
def captured (s : State) : List Edge := (s.edge.map Prod.snd).map unpack

end Sys2Proof.Claims

open Sys2Proof Sys2Proof.Machine Sys2Proof.Claims

/-! ### Encoding -/

/-- Words written out from R71 to R73 and R76 decode to the operations they stand for, and the reserved
forms of R77 to none. -/
def Obligations.DecodeReadsTheSpecsWords : Prop :=
  decode ⟨0x10000001, [1, 2, 3, 4, 5]⟩ = .ok (.buildProfile true 1 2 3 4 5) ∧
  decode ⟨0x11000000, [0x05F5E100]⟩ = .ok (.setGapTolerance 100000000) ∧
  decode ⟨0x12000000, []⟩ = .ok .getProfile ∧
  decode ⟨0x01000001, [1, 2, 3, 4, 5]⟩ = .ok (.configure true false 1 2 3 4 5) ∧
  decode ⟨0x01000002, [1, 2, 3, 4, 5]⟩ = .ok (.configure false true 1 2 3 4 5) ∧
  decode ⟨0x02000001, [0x320]⟩ = .ok (.pushEdge true 800) ∧
  decode ⟨0x08000000, [8, 1]⟩ = .ok (.getRawEdges 8 1) ∧
  decode ⟨0x20000001, [4]⟩ = .ok (.decode true 4) ∧
  decode ⟨0x7F000000, []⟩ = .error .unassignedOpcode ∧
  decode ⟨0x20000003, [4]⟩ = .error .reservedFlag ∧
  decode ⟨0x02000101, [0x320]⟩ = .error .reservedZeroField ∧
  decode ⟨0x05000000, [0]⟩ = .error .wrongLength

/-- Decoding and encoding agree both ways: a packet decodes to an operation exactly when it is the packet
the encoder writes for it, so no bit of an encoding is dropped and no two packets mean the same. -/
def Obligations.DecodeInvertsEncode : Prop :=
  ∀ (p : Packet) (i : Instr), decode p = .ok i ↔ p = encode i

/-- R77 and R185: the four conditions of an illegal command, their match-and-mask form, and the one answer
to such a command, with no state changed. (The encodings and the answer are the spec's decisions D22, D23.) -/
def Obligations.IllegalCommandsAreAnsweredAndChangeNothing : Prop :=
  ∀ (s : State) (p : Packet) (rest : List Event), s.inbox = .command p :: rest →
    (IllegalCommand p ↔ p.isLegal = false) ∧
    (IllegalCommand p →
      step s = .next { s with inbox := rest, responses := s.responses ++ [⟨15, [], .none⟩] }) ∧
    (¬ IllegalCommand p → ∃ i, decode p = .ok i)

/-- Legality does not depend on the operand words: other words in the same number are legal too and reach
the operation unchanged, with the same opcode and flags. -/
def Obligations.OperandWordsNeverMakeACommandIllegal : Prop :=
  ∀ (h : Word) (ws ws' : List Word) (i : Instr), decode ⟨h, ws⟩ = .ok i → ws'.length = ws.length →
    ∃ i', decode ⟨h, ws'⟩ = .ok i' ∧ i'.operands = ws' ∧ i'.opcode = i.opcode ∧ i'.flags = i.flags

/-! ### One step -/

/-- A legal command at the head of the stream is run, whole, on the state with that command taken. -/
def Obligations.StepRunsTheDecodedCommand : Prop :=
  ∀ (s : State) (p : Packet) (rest : List Event) (i : Instr),
    s.inbox = .command p :: rest → decode p = .ok i → step s = exec i { s with inbox := rest }

/-- R195: with nothing presented the block holds its state. -/
def Obligations.StepWithNothingPresentedHoldsTheState : Prop :=
  ∀ s : State, s.inbox = [] → step s = .next s

/-- R200: hardware reset clears every register, drives `finished` low and leaves an unconfigured buffer
that rejects the first push and decodes nothing; and the model's reset state has those values.
(The values are the spec's decision D25; what the edge slots hold is left unsaid.) -/
def Obligations.HardwareResetClearsTheBlock : Prop :=
  (∀ (s : State) (rest : List Event), s.inbox = .hardwareReset :: rest →
    ∃ t, step s = .next t ∧ t.count = 0 ∧ t.capacity = 0 ∧ t.finished = false ∧
      t.cfg = ⟨0, 0, 0, 0, false⟩ ∧ t.prof = ⟨0, 0, 0, 0, 0, 0, 0, 0, 0, 0⟩ ∧ t.finishedOutput = false ∧
      t.prof.windowsOrdered ∧
      (∀ hi d, exec (.pushEdge hi d) t =
        .next { t with finished := true, responses := t.responses ++ [⟨0, [0], .none⟩] }) ∧
      (∀ spl n, exec (.decode spl n) t = .next { t with responses := t.responses ++ [⟨3, [], .none⟩] })) ∧
  State.reset.count = 0 ∧ State.reset.capacity = 0 ∧ State.reset.finished = false ∧
  State.reset.cfg = ⟨0, 0, 0, 0, false⟩ ∧ State.reset.prof = ⟨0, 0, 0, 0, 0, 0, 0, 0, 0, 0⟩ ∧
  State.reset.finishedOutput = false

/-- Hardware reset gives no response, takes one event of the stream and changes neither the commands that
wait behind it nor the parameter `CAP_MAX`: the model's choice for its own fields (log entry 8). -/
def Obligations.HardwareResetKeepsStreamsAndParameter : Prop :=
  ∀ (s : State) (rest : List Event), s.inbox = .hardwareReset :: rest →
    ∃ t, step s = .next t ∧ t.inbox = rest ∧ t.responses = s.responses ∧ t.capMax = s.capMax

/-- Two commands at once have no meaning (`93_implementation_defined.md` U4): the model refuses (log entry 7). -/
def Obligations.OverlappingCommandsAreRefused : Prop :=
  ∀ (s : State) (p q : Packet) (rest : List Event), s.inbox = .overlap p q :: rest →
    step s = .refused .overlappingCommands

/-! ### The profile builder -/

/-- R100 and R102 as formulas in natural numbers: nominal sums and upper bounds limited to `2^32-1`
(the spec's decision D4), lower bounds clamped to 0, `reset_us` copied, the gap tolerance 0. -/
def Obligations.BuildProfileFormulas : Prop :=
  ∀ (n : Nominal) (tol : Word),
    let cap := fun x : Nat => min x (2 ^ 32 - 1)
    let lo := fun v : Nat => if v > tol.toNat then v - tol.toNat else 0
    let hi := fun v : Nat => cap (v + tol.toNat)
    let bit0Low := cap (n.t2Ns.toNat + n.t3Ns.toNat)
    let bit1High := cap (n.t1Ns.toNat + n.t2Ns.toNat)
    let P := buildProfile n tol
    (bit0HighNominal n).toNat = n.t1Ns.toNat ∧ (bit0LowNominal n).toNat = bit0Low ∧
    (bit1HighNominal n).toNat = bit1High ∧ (bit1LowNominal n).toNat = n.t3Ns.toNat ∧
    P.bit0HighMinNs.toNat = lo n.t1Ns.toNat ∧ P.bit0HighMaxNs.toNat = hi n.t1Ns.toNat ∧
    P.bit0LowMinNs.toNat = lo bit0Low ∧ P.bit0LowMaxNs.toNat = hi bit0Low ∧
    P.bit1HighMinNs.toNat = lo bit1High ∧ P.bit1HighMaxNs.toNat = hi bit1High ∧
    P.bit1LowMinNs.toNat = lo n.t3Ns.toNat ∧ P.bit1LowMaxNs.toNat = hi n.t3Ns.toNat ∧
    P.resetMinUs = n.resetUs ∧ P.gapToleranceNs = 0

/-- Every built window contains its nominal value, so its bounds are ordered, and a wider tolerance gives
wider windows. -/
def Obligations.BuiltWindowsContainTheirNominal : Prop :=
  ∀ (n : Nominal) (tol : Word),
    let P := buildProfile n tol
    P.windowsOrdered ∧ P.gapToleranceNs = 0 ∧
    (P.bit0HighMinNs ≤ bit0HighNominal n ∧ bit0HighNominal n ≤ P.bit0HighMaxNs) ∧
    (P.bit0LowMinNs ≤ bit0LowNominal n ∧ bit0LowNominal n ≤ P.bit0LowMaxNs) ∧
    (P.bit1HighMinNs ≤ bit1HighNominal n ∧ bit1HighNominal n ≤ P.bit1HighMaxNs) ∧
    (P.bit1LowMinNs ≤ bit1LowNominal n ∧ bit1LowNominal n ≤ P.bit1LowMaxNs) ∧
    ∀ (tol' : Word) (h l : Duration), tol ≤ tol' →
      (matchesBit0 P h l = true → matchesBit0 (buildProfile n tol') h l = true) ∧
      (matchesBit1 P h l = true → matchesBit1 (buildProfile n tol') h l = true)

/-- R103: the built profile is stored whole and returned in its order; `dt` selects 150 and ignores `W5`
(storing it is the spec's decision D19). -/
def Obligations.BuildProfileStoresAndReturns : Prop :=
  (∀ (dt : Bool) (t1 t2 t3 ru tol : Word) (s : State),
    let P := buildProfile ⟨t1, t2, t3, ru⟩ (if dt then 150 else tol)
    exec (.buildProfile dt t1 t2 t3 ru tol) s =
      .next { s with
        prof := P
        responses := s.responses ++ [⟨0,
          [P.bit0HighMinNs, P.bit0HighMaxNs, P.bit0LowMinNs, P.bit0LowMaxNs, P.bit1HighMinNs,
           P.bit1HighMaxNs, P.bit1LowMinNs, P.bit1LowMaxNs, P.resetMinUs, P.gapToleranceNs], .none⟩] } ∧
    P.gapToleranceNs = 0) ∧
  buildProfile ⟨400, 400, 450, 50000⟩ 150 = ⟨250, 550, 700, 1000, 650, 950, 300, 600, 50000, 0⟩

/-- R104: one field of the profile is written, nothing else; with 0 the gap rule is off, so that no pair
is a gap (the operation is the spec's decision D19). -/
def Obligations.SetGapToleranceWritesOneField : Prop :=
  ∀ (g : Word) (s : State), ∃ t, exec (.setGapTolerance g) s = .next t ∧
    t = { s with
      prof := { s.prof with gapToleranceNs := g }
      responses := s.responses ++ [⟨0, [], .none⟩] } ∧
    (g = 0 → ∀ h l, classify t.prof h l ≠ .gap)

/-- R105, R130, R131, R132, R134: each observer answers its register's value and writes nothing; after
hardware reset each answers zeros. (`GET_PROFILE` and `GET_CONFIG` are the spec's decision D18.) -/
def Obligations.ObserversAnswerTheRegisters : Prop :=
  ∀ s : State,
    exec .getProfile s = .next { s with responses := s.responses ++ [⟨0,
      [s.prof.bit0HighMinNs, s.prof.bit0HighMaxNs, s.prof.bit0LowMinNs, s.prof.bit0LowMaxNs,
       s.prof.bit1HighMinNs, s.prof.bit1HighMaxNs, s.prof.bit1LowMinNs, s.prof.bit1LowMaxNs,
       s.prof.resetMinUs, s.prof.gapToleranceNs], .none⟩] } ∧
    exec .edgeCount s = .next { s with responses := s.responses ++ [⟨0, [s.count], .none⟩] } ∧
    exec .isFinished s = .next { s with
      responses := s.responses ++ [⟨0, [if s.finished then 1 else 0], .none⟩] } ∧
    exec .bufferCapacity s = .next { s with responses := s.responses ++ [⟨0, [s.capacity], .none⟩] } ∧
    exec .getConfig s = .next { s with responses := s.responses ++ [⟨0,
      [s.cfg.bufferCapacity, s.cfg.signalRangeMinNs, s.cfg.signalRangeMaxNs, s.cfg.skipSignals,
       if s.cfg.startPolarityLow then 1 else 0], .none⟩] } ∧
    ∀ rest, s.inbox = .hardwareReset :: rest → ∃ t, step s = .next t ∧
      exec .getProfile t = .next { t with
        responses := t.responses ++ [⟨0, [0, 0, 0, 0, 0, 0, 0, 0, 0, 0], .none⟩] } ∧
      exec .bufferCapacity t = .next { t with responses := t.responses ++ [⟨0, [0], .none⟩] } ∧
      exec .getConfig t = .next { t with responses := t.responses ++ [⟨0, [0, 0, 0, 0, 0], .none⟩] }

/-! ### The capture buffer -/

/-- R121 and R122: the supplied policy is stored verbatim, the capacity is the request limited to
`CAP_MAX`, the buffer is emptied, the profile kept; `GET_CONFIG` then returns what was supplied and
`BUFFER_CAPACITY` what is in force. (Clamping, clearing `FINISHED` and keeping the request are the spec's
decisions D14, D15, D34.) -/
def Obligations.ConfigureStoresPolicyAndEmptiesBuffer : Prop :=
  ∀ (ovr spl : Bool) (bc lo hi sk oc : Word) (s : State),
    ∃ t, exec (.configure ovr spl bc lo hi sk oc) s = .next t ∧
      t.cfg = ⟨bc, lo, hi, sk, spl⟩ ∧
      t.capacity.toNat = min (if ovr then oc.toNat else bc.toNat) s.capMax.toNat ∧
      t.count = 0 ∧ t.finished = false ∧ t.prof = s.prof ∧ t.capMax = s.capMax ∧ t.inbox = s.inbox ∧
      t.responses = s.responses ++ [⟨0, [], .none⟩] ∧
      exec .getConfig t = .next { t with
        responses := t.responses ++ [⟨0, [bc, lo, hi, sk, if spl then 1 else 0], .none⟩] } ∧
      exec .bufferCapacity t = .next { t with responses := t.responses ++ [⟨0, [t.capacity], .none⟩] }

/-- R123: the same `CONFIGURE` again leaves the same state (the response log aside, which each response
extends). -/
def Obligations.ConfigureIsIdempotent : Prop :=
  ∀ (ovr spl : Bool) (bc lo hi sk oc : Word) (s t : State),
    exec (.configure ovr spl bc lo hi sk oc) s = .next t →
    ∃ t', exec (.configure ovr spl bc lo hi sk oc) t = .next t' ∧ t' = { t with responses := t'.responses }

/-- R124 and R125: while there is room the edge, its duration limited to `2^31-1` and its polarity taken
from the flag, goes into slot `COUNT`, `COUNT` grows by one, and nothing else changes: every other slot
reads as before, and the push that fills the last slot does not set `FINISHED`. Without room the push is
rejected. (Saturation and the word's layout are the spec's decisions D3, D2.) -/
def Obligations.PushAppendsWhileThereIsRoom : Prop :=
  ∀ (hi : Bool) (d : Word) (s : State),
    (s.count < s.capacity → s.capacity ≤ s.capMax →
      ∃ t w, exec (.pushEdge hi d) s = .next t ∧
        t.edge.read s.count.toNat = some w ∧
        w.toNat = (if hi then 2 ^ 31 else 0) + min d.toNat (2 ^ 31 - 1) ∧
        (∀ a, a ≠ s.count.toNat → t.edge.read a = s.edge.read a) ∧
        t.count.toNat = s.count.toNat + 1 ∧
        t = { s with count := t.count, edge := t.edge, responses := s.responses ++ [⟨0, [1], .none⟩] }) ∧
    (¬ s.count < s.capacity →
      exec (.pushEdge hi d) s =
        .next { s with finished := true, responses := s.responses ++ [⟨0, [0], .none⟩] })

/-- R126: a push into a full buffer changes no slot and no count, sets `FINISHED` and answers 0 with
status `OK`, and so does every further push. -/
def Obligations.PushIntoFullBufferIsRejected : Prop :=
  ∀ (hi hi' : Bool) (d d' : Word) (s : State), s.count = s.capacity →
    ∃ t, exec (.pushEdge hi d) s = .next t ∧
      t = { s with finished := true, responses := s.responses ++ [⟨0, [0], .none⟩] } ∧
      exec (.pushEdge hi' d') t = .next { t with responses := t.responses ++ [⟨0, [0], .none⟩] }

/-- R127: after `FINISH` with room left a push is still appended: the word goes into slot `COUNT`, every
other slot reads as before, `COUNT` grows by one, and `FINISHED` stays true. (The spec's decisions D13, D3, D2.) -/
def Obligations.PushAfterFinishIsStillAppended : Prop :=
  ∀ (hi : Bool) (d : Word) (s t : State), s.count < s.capacity → s.capacity ≤ s.capMax →
    exec .finish s = .next t →
    ∃ t' w, exec (.pushEdge hi d) t = .next t' ∧
      t'.edge.read s.count.toNat = some w ∧
      w.toNat = (if hi then 2 ^ 31 else 0) + min d.toNat (2 ^ 31 - 1) ∧
      (∀ a, a ≠ s.count.toNat → t'.edge.read a = s.edge.read a) ∧
      t'.count.toNat = s.count.toNat + 1 ∧ t'.finished = true ∧
      t' = { t with count := t'.count, edge := t'.edge, responses := t.responses ++ [⟨0, [1], .none⟩] }

/-- R128: `FINISH` sets the flag, and nothing else; it is idempotent (the operation is the spec's decision
D12). -/
def Obligations.FinishSetsTheFlagOnly : Prop :=
  ∀ s : State, ∃ t, exec .finish s = .next t ∧
    t = { s with finished := true, responses := s.responses ++ [⟨0, [], .none⟩] } ∧
    exec .finish t = .next { t with responses := t.responses ++ [⟨0, [], .none⟩] }

/-- R129: the buffer is empty and unfinished, no slot is in the valid region any more (none can be read
back), and policy, capacity and profile are retained. -/
def Obligations.BufResetEmptiesAndKeepsPolicy : Prop :=
  ∀ s : State, ∃ t, exec .bufReset s = .next t ∧
    t.count = 0 ∧ t.finished = false ∧ t.capacity = s.capacity ∧ t.cfg = s.cfg ∧ t.prof = s.prof ∧
    t.capMax = s.capMax ∧ t.inbox = s.inbox ∧ t.responses = s.responses ++ [⟨0, [], .none⟩] ∧
    ∀ n off, exec (.getRawEdges n off) t = .next { t with responses := t.responses ++ [⟨0, [0], .edges []⟩] }

/-- R133: the copied range is clipped to the valid region, never below zero, and holds the stored words in
slot order; nothing is written. (The clamp is the spec's decision D16.) -/
def Obligations.RawEdgesAreTheStoredWords : Prop :=
  ∀ (n off : Word) (s : State), s.bufferInv →
    ∃ ws : List Word, exec (.getRawEdges n off) s = .next { s with
        responses := s.responses ++ [⟨0, [BitVec.ofNat 32 ws.length], .edges ws⟩] } ∧
      ws.length = min n.toNat (if off < s.count then s.count.toNat - off.toNat else 0) ∧
      ∀ j, j < ws.length → ws[j]? = s.edge.read (off.toNat + j)

/-- A buffer of capacity 0 rejects the first push and sets `FINISHED`, copies no edges, and decodes to
`InvalidArgument`. -/
def Obligations.CapacityZeroAcceptsNothing : Prop :=
  ∀ s : State, s.bufferInv → s.capacity = 0 →
    (∀ hi d, exec (.pushEdge hi d) s =
      .next { s with finished := true, responses := s.responses ++ [⟨0, [0], .none⟩] }) ∧
    (∀ n off, exec (.getRawEdges n off) s =
      .next { s with responses := s.responses ++ [⟨0, [0], .edges []⟩] }) ∧
    (∀ spl n, exec (.decode spl n) s = .next { s with responses := s.responses ++ [⟨3, [], .none⟩] })

/-! ### Frames and whole-machine rules -/

/-- The "written by" column of R20: which operations may change each register and each slot. A slot is
changed only by an accepted push, at index `COUNT`, or dropped by `CONFIGURE` and `BUF_RESET`. -/
def Obligations.OperationsWriteOnlyTheirRegisters : Prop :=
  ∀ (i : Instr) (s t : State), exec i s = .next t →
    (t.prof = s.prof ∨ i.opcode = .buildProfile ∨ i.opcode = .setGapTolerance) ∧
    (t.cfg = s.cfg ∨ i.opcode = .configure) ∧
    (t.capacity = s.capacity ∨ i.opcode = .configure) ∧
    (t.count = s.count ∨ i.opcode = .configure ∨ i.opcode = .bufReset ∨
      (i.opcode = .pushEdge ∧ s.count < s.capacity)) ∧
    (t.finished = s.finished ∨ i.opcode = .configure ∨ i.opcode = .bufReset ∨ i.opcode = .finish ∨
      (i.opcode = .pushEdge ∧ ¬ s.count < s.capacity)) ∧
    (∀ a, t.edge.read a = s.edge.read a ∨ i.opcode = .configure ∨ i.opcode = .bufReset ∨
      (i.opcode = .pushEdge ∧ s.count < s.capacity ∧ a = s.count.toNat)) ∧
    t.capMax = s.capMax ∧ t.inbox = s.inbox

/-- The observers, `GET_RAW_EDGES` and `DECODE` change no architectural state: all they do is give one
response. -/
def Obligations.ObserversChangeNothing : Prop :=
  ∀ (i : Instr) (s t : State),
    i.opcode ∈ [.getProfile, .edgeCount, .isFinished, .bufferCapacity, .getRawEdges, .getConfig, .decode] →
    exec i s = .next t → ∃ r, t = { s with responses := s.responses ++ [r] }

/-- An accepted edge never changes while it is stored: whatever the next event, unless it discards the
edges, every slot below `COUNT` reads as before and stays below `COUNT`. -/
def Obligations.StoredEdgesAreImmutable : Prop :=
  ∀ s t : State, s.bufferInv → step s = .next t → ¬ PresentsClear s →
    s.count ≤ t.count ∧ ∀ a, a < s.count.toNat → t.edge.read a = s.edge.read a

/-- `FINISHED` after any event is what R23 says, and the output `finished` follows it (R189). -/
def Obligations.FinishedFollowsItsRule : Prop :=
  ∀ s t : State, step s = .next t → t.finished = finishedAfter s ∧ t.finishedOutput = t.finished

/-- `COUNT` stays, goes to 0 with the edges discarded, or grows by exactly one by an accepted push. -/
def Obligations.CountGrowsByOneOrClears : Prop :=
  ∀ s t : State, s.bufferInv → step s = .next t →
    t.count = s.count ∨ (t.count = 0 ∧ PresentsClear s) ∨
    (t.count.toNat = s.count.toNat + 1 ∧ s.count < s.capacity ∧
      ∃ hi d, Presents s (.pushEdge hi d))

/-- No operation but `GET_CONFIG` reads the stored policy: with another policy in place everything else
is the same. -/
def Obligations.StoredPolicyInfluencesNothing : Prop :=
  ∀ (i : Instr) (s t : State) (c : RxConfig), i.opcode ≠ .getConfig → exec i s = .next t →
    exec i { s with cfg := c } = .next (if i.opcode = .configure then t else { t with cfg := c })

/-- No operation but `IS_FINISHED` reads the flag: with the flag changed, every other operation answers the
same and leaves the rest of the state the same. -/
def Obligations.FinishedIsReadByIsFinishedOnly : Prop :=
  ∀ (i : Instr) (s t : State) (b : Bool), i.opcode ≠ .isFinished → exec i s = .next t →
    ∃ t', exec i { s with finished := b } = .next t' ∧ t' = { t with finished := t'.finished }

/-- The block keeps no copy of a response: what a step does and answers does not depend on the responses
already given (the response log is the model's own field, log entry 2). -/
def Obligations.ResponsesAreNeverReadBack : Prop :=
  ∀ (s t : State) (rs : List Response), step s = .next t →
    step { s with responses := rs } = .next { t with responses := rs ++ newResponses s t }

/-! ### The edge word and the decoder -/

/-- R51: the word's layout, and `pack` and `unpack` inverse to each other (which bit holds the polarity is
the spec's decision D2). -/
def Obligations.EdgeWordLayout : Prop :=
  (∀ e : Edge, (pack e).toNat = (if e.isHigh then 2 ^ 31 else 0) + e.durationNs.toNat) ∧
  (∀ w : Word, (unpack w).isHigh = decide (2 ^ 31 ≤ w.toNat) ∧
    (unpack w).durationNs.toNat = w.toNat % 2 ^ 31) ∧
  (∀ e : Edge, unpack (pack e) = e) ∧ (∀ w : Word, pack (unpack w) = w)

/-- The comparator of R155 in natural numbers, bounds inclusive, product exact, and the priority of R156:
`BIT0`, `BIT1`, `GAP`, `STOP` (the spec's decisions D5, D6, D7; the factor 1000 is its general knowledge,
log entry 11). -/
def Obligations.ClassifyFollowsWindowsThenGap : Prop :=
  ∀ (P : Profile) (h l : Duration),
    let m0 := P.bit0HighMinNs.toNat ≤ h.toNat ∧ h.toNat ≤ P.bit0HighMaxNs.toNat ∧
      P.bit0LowMinNs.toNat ≤ l.toNat ∧ l.toNat ≤ P.bit0LowMaxNs.toNat
    let m1 := P.bit1HighMinNs.toNat ≤ h.toNat ∧ h.toNat ≤ P.bit1HighMaxNs.toNat ∧
      P.bit1LowMinNs.toNat ≤ l.toNat ∧ l.toNat ≤ P.bit1LowMaxNs.toNat
    let g := 0 < P.gapToleranceNs.toNat ∧ P.resetMinUs.toNat * 1000 < l.toNat ∧
      l.toNat < P.gapToleranceNs.toNat
    (classify P h l = .bit0 ↔ m0) ∧ (classify P h l = .bit1 ↔ ¬ m0 ∧ m1) ∧
    (classify P h l = .gap ↔ ¬ m0 ∧ ¬ m1 ∧ g) ∧ (classify P h l = .stop ↔ ¬ m0 ∧ ¬ m1 ∧ ¬ g)

/-- R152: `DECODE` answers `InvalidArgument`, and does nothing else, exactly when the buffer is
empty; edges without a valid pair decode to zero bytes, a success. -/
def Obligations.EmptyInputIsInvalidArgument : Prop :=
  (∀ (spl : Bool) (n : Word) (s : State), s.bufferInv →
    (s.count = 0 → exec (.decode spl n) s = .next { s with responses := s.responses ++ [⟨3, [], .none⟩] }) ∧
    (s.count ≠ 0 → ∃ r, exec (.decode spl n) s = .next { s with responses := s.responses ++ [r] } ∧
      r.status ≠ 3)) ∧
  (∀ P spl n, decodeEdges [] P spl n = .err .invalidArgument) ∧
  (∀ x y rest P n, classify P x.durationNs y.durationNs = .stop →
    decodeEdges (x :: y :: rest) P x.isHigh n = .ok [])

/-- R153: edges before the first one of the starting polarity have no effect, whatever their durations;
with no such edge the result is zero bytes, for every output size. -/
def Obligations.AlignmentDiscardsIdleEdges : Prop :=
  ∀ (P : Profile) (spl : Bool) (n : Word) (idle : List Edge), (∀ e ∈ idle, e.isHigh ≠ spl) →
    (idle ≠ [] → decodeEdges idle P spl n = .ok []) ∧
    ∀ (e : Edge) (rest : List Edge), e.isHigh = spl →
      decodeEdges (idle ++ e :: rest) P spl n = decodeEdges (e :: rest) P spl n

/-- R154's positional pairing: after alignment no polarity is examined, so two sequences with the same
durations decode alike (the spec's decision D8). -/
def Obligations.PairRolesArePositional : Prop :=
  ∀ (P : Profile) (es es' : List Edge) (a : Accumulator),
    es.map Edge.durationNs = es'.map Edge.durationNs → decodePairs P es a = decodePairs P es' a

/-- R158 for any number of bits: a `BIT0` or `BIT1` pair enters one bit into the accumulator; every eight
make one byte, the first to arrive its most significant bit, bytes in order of arrival, the rest wait in
the accumulator. -/
def Obligations.EightBitsMakeAByteMsbFirst : Prop :=
  (∀ (P : Profile) (x y : Edge) (rest : List Edge) (a : Accumulator),
    (classify P x.durationNs y.durationNs = .bit0 →
      decodePairs P (x :: y :: rest) a = decodePairs P rest (a.shiftIn false)) ∧
    (classify P x.durationNs y.durationNs = .bit1 →
      decodePairs P (x :: y :: rest) a = decodePairs P rest (a.shiftIn true))) ∧
  ∀ bits : List Bool,
    let a := bits.foldl Accumulator.shiftIn .empty
    a.bytes.length = bits.length / 8 ∧ a.nbits = bits.length % 8 ∧
    ∀ k j, j < 8 → 8 * k + j < 8 * a.bytes.length →
      (a.bytes[k]?.map fun b => b.getLsbD (7 - j)) = bits[8 * k + j]?

/-- R159: at the first pair that matches nothing decoding ends; bytes already complete are kept, what
follows is ignored, and it is no error. -/
def Obligations.StopKeepsCompletedBytes : Prop :=
  ∀ (P : Profile) (spl : Bool) (n : Word) (before : List Edge) (x y : Edge) (after : List Edge),
    before.length % 2 = 0 → (∀ e, (before ++ [x]).head? = some e → e.isHigh = spl) →
    classify P x.durationNs y.durationNs = .stop →
    (decodedBytes before P spl).length ≤ n.toNat →
    decodeEdges (before ++ x :: y :: after) P spl n = .ok (decodedBytes before P spl)

/-- The gap rule of R157: a pair in no bit window whose low pulse lies strictly between the reset threshold (in
nanoseconds) and the gap tolerance is passed over, the accumulator and the bytes left as they were; with
gap tolerance 0 there is no such pair. (The unit and the kept accumulator are the spec's decisions D5, D10;
the factor 1000 is its general knowledge, log entry 11.) -/
def Obligations.GapPairsAreInvisible : Prop :=
  ∀ (P : Profile) (before : List Edge) (x y : Edge) (after : List Edge) (a : Accumulator),
    before.length % 2 = 0 →
    matchesBit0 P x.durationNs y.durationNs = false → matchesBit1 P x.durationNs y.durationNs = false →
    (P.resetMinUs.toNat * 1000 < y.durationNs.toNat → y.durationNs.toNat < P.gapToleranceNs.toNat →
      decodePairs P (before ++ x :: y :: after) a = decodePairs P (before ++ after) a) ∧
    (P.gapToleranceNs = 0 → classify P x.durationNs y.durationNs = .stop)

/-- R160: a single trailing edge is no pair and no error: behind pairs it changes neither the pair loop nor
the decoded result, so the bits that wait in the accumulator are dropped with it as without it (the spec's
decision D9). -/
def Obligations.TrailingEdgeIsIgnored : Prop :=
  (∀ (P : Profile) (es : List Edge) (e : Edge) (a : Accumulator), es.length % 2 = 0 →
    decodePairs P (es ++ [e]) a = decodePairs P es a) ∧
  (∀ (P : Profile) (spl : Bool) (n : Word) (es : List Edge) (e : Edge),
    alignEdges spl es ≠ [] → (alignEdges spl es).length % 2 = 0 →
    decodeEdges (es ++ [e]) P spl n = decodeEdges es P spl n) ∧
  ∀ (P : Profile) (spl : Bool) (n : Word) (e : Edge), decodeEdges [e] P spl n = .ok []

/-- R161, as `DECODE` on a non-empty buffer shows it (R151): the captured edges are decoded under the stored
profile, whether that overflows depends on the whole decoded length only, and on overflow nothing is
delivered. (Delivering nothing is the spec's decision D11.) -/
def Obligations.CapacityCheckUsesTheWholeLength : Prop :=
  ∀ (spl : Bool) (n : Word) (s : State), s.bufferInv → s.count ≠ 0 →
    let bytes := decodedBytes (captured s) s.prof spl
    (n.toNat < bytes.length →
      exec (.decode spl n) s = .next { s with responses := s.responses ++ [⟨2, [], .none⟩] }) ∧
    (bytes.length ≤ n.toNat →
      exec (.decode spl n) s = .next { s with
        responses := s.responses ++ [⟨0, [BitVec.ofNat 32 bytes.length], .bytes bytes⟩] })

/-- Capacity monotonicity: a successful decode succeeds with the same bytes for every output size that
holds them, and overflows for every smaller one. -/
def Obligations.DecodeIsMonotoneInOutputSize : Prop :=
  ∀ (es : List Edge) (P : Profile) (spl : Bool) (n m : Word) (bs : List Byte),
    decodeEdges es P spl n = .ok bs →
    (bs.length ≤ m.toNat → decodeEdges es P spl m = .ok bs) ∧
    (m.toNat < bs.length → decodeEdges es P spl m = .err .bufferOverflow)

/-- Each byte takes sixteen edges after the aligned index. -/
def Obligations.EachByteTakesSixteenEdges : Prop :=
  ∀ (es : List Edge) (P : Profile) (spl : Bool),
    16 * (decodedBytes es P spl).length ≤ (alignEdges spl es).length ∧
    (alignEdges spl es).length ≤ es.length

/-- R163: the model's decoder is the normative pseudocode with its cursor, its loop and its byte count. -/
def Obligations.DecodeIsTheCursorPseudocode : Prop :=
  ∀ (es : List Edge) (P : Profile) (spl : Bool) (n : Word),
    decodeEdges es P spl n = decodeByCursor es P spl n

/-- The same `DECODE` again on the state it left gives the same response. -/
def Obligations.RepeatedDecodeAnswersAlike : Prop :=
  ∀ (spl : Bool) (n : Word) (s t : State), exec (.decode spl n) s = .next t →
    ∃ r, t.responses = s.responses ++ [r] ∧
      exec (.decode spl n) t = .next { t with responses := t.responses ++ [r] }

/-- Round trip: bytes sent as nominal pulse pairs, most significant bit first, decode to themselves under
the profile built from the same timing, for every tolerance below `t2` whose pulses fit an edge. -/
def Obligations.NominalPulsesDecodeToTheirBytes : Prop :=
  ∀ (n : Nominal) (tol : Word) (bs : List Byte) (outLen : Word),
    tol < n.t2Ns → n.t1Ns.toNat + n.t2Ns.toNat < 2 ^ 31 → n.t2Ns.toNat + n.t3Ns.toNat < 2 ^ 31 →
    bs ≠ [] → bs.length ≤ outLen.toNat →
    decodeEdges (bytesEdges n bs) (buildProfile n tol) true outLen = .ok bs

/-- The whole block on a command stream: into an empty buffer with room, `PUSH_BYTE` for each byte and one
`DECODE` end, step by step, with exactly those bytes delivered. A statement over a run: it rests on the
model's choice that the stream stands in `inbox` before the run starts (log entry 1). -/
def Obligations.PushedBytesAreDecodedBack : Prop :=
  ∀ (s : State) (n : Nominal) (tol : Word) (bs : List Byte) (outLen : Word),
    s.bufferInv → s.count = 0 → 16 * bs.length ≤ s.capacity.toNat → s.prof = buildProfile n tol →
    tol < n.t2Ns → n.t1Ns.toNat + n.t2Ns.toNat < 2 ^ 31 → n.t2Ns.toNat + n.t3Ns.toNat < 2 ^ 31 →
    bs ≠ [] → bs.length ≤ outLen.toNat →
    s.inbox = (bs.flatMap (pushByte n) ++ [Instr.decode true outLen]).map (fun i => Event.command (encode i)) →
    ∃ t : State, Host.Core.run Sys2Proof.core (16 * bs.length + 1) s = .next t ∧
      t.inbox = [] ∧ t.count.toNat = 16 * bs.length ∧
      t.responses.getLast? = some ⟨0, [BitVec.ofNat 32 bs.length], .bytes bs⟩

/-! ### Errors and responses -/

/-- R183: status 1 is never returned, and a `DECODE` header with flag bit 1 set is no command; moreover
status 2 and 3 come from `DECODE` only (R74, R180). -/
def Obligations.HighErrorRateIsNeverProduced : Prop :=
  (∀ (s t : State) (r : Response), step s = .next t → r ∈ newResponses s t →
    r.status ≠ 1 ∧ r.status ∈ [0, 2, 3, 15] ∧
    (r.status = 2 ∨ r.status = 3 → ∃ spl n, Presents s (.decode spl n))) ∧
  ∀ (h : Word) (ws : List Word), h.toNat / 2 ^ 24 = 0x20 → h.getLsbD 1 = true → ∀ i, decode ⟨h, ws⟩ ≠ .ok i

/-- R186: an error is the status word of the response and nothing else: the failing command has had no
effect on the state. -/
def Obligations.ErrorsChangeNothing : Prop :=
  ∀ (s t : State) (r : Response), step s = .next t → r ∈ newResponses s t → r.status ≠ 0 →
    r.results = [] ∧ r.payload = .none ∧
    t = { s with inbox := s.inbox.tail, responses := s.responses ++ [r] }

/-- The shape of every successful response: as many result words as R75 says, a payload for
`GET_RAW_EDGES` and `DECODE` only, its length announced by `R1` (R79). -/
def Obligations.ResponsesHaveTheirShape : Prop :=
  ∀ (i : Instr) (s t : State), exec i s = .next t →
    ∃ r, t.responses = s.responses ++ [r] ∧
      (r.status = 0 → r.results.length = resultCount i.opcode ∧
        match r.payload with
        | .none => i.opcode ≠ .getRawEdges ∧ i.opcode ≠ .decode
        | .edges ws => i.opcode = .getRawEdges ∧ r.results = [BitVec.ofNat 32 ws.length]
        | .bytes bs => i.opcode = .decode ∧ r.results = [BitVec.ofNat 32 bs.length])

/-! ### The invariant -/

/-- Every step keeps the invariant: `COUNT <= CAPACITY <= CAP_MAX`, exactly the slots below `COUNT` hold a
value, the store is in its canonical form, every window of the profile is ordered. (That other slots hold no
value is the model's choice, log entry 4; the store as a list of (slot, word) pairs is log entry 5.) -/
def Obligations.EveryStepKeepsTheInvariant : Prop :=
  ∀ s t : State, s.Inv → step s = .next t → t.Inv

/-- The invariant holds at reset. (That `CAP_MAX` is 64 there and that no slot holds a value are the model's
choices, log entries 3 and 4; the form of the store is log entry 5.) -/
def Obligations.InvariantHoldsAtReset : Prop := State.reset.Inv

/-- R70's one response for each command: from every state that meets the invariant, whatever packet is presented, the step completes, takes
that one packet and gives exactly one response; no access faults and nothing is refused. -/
def Obligations.EveryCommandGetsOneResponse : Prop :=
  ∀ (s : State) (p : Packet) (rest : List Event), s.Inv → s.inbox = .command p :: rest →
    ∃ t r, step s = .next t ∧ t.inbox = rest ∧ t.responses = s.responses ++ [r]
end

