-- ==== Sys2Proof/Laws/Decode.lean ====
section
/-! SUPPORT. The decoder's tables and header fields, and what a packet that decodes looks like. -/

namespace Sys2Proof

theorem Opcode.ofByte?_code (o : Opcode) : Opcode.ofByte? o.code = some o := by cases o <;> decide

theorem Opcode.code_of_ofByte? {b : Byte} {o : Opcode} (h : Opcode.ofByte? b = some o) : o.code = b := by
  have := List.find?_some h
  simpa using this

theorem headerOpcode_toNat (h : Word) : (headerOpcode h).toNat = h.toNat / 2 ^ 24 % 2 ^ 8 := by
  simp [headerOpcode, BitVec.extractLsb'_toNat, Nat.shiftRight_eq_div_pow]

theorem headerZero_toNat (h : Word) : (headerZero h).toNat = h.toNat / 2 ^ 8 % 2 ^ 16 := by
  simp [headerZero, BitVec.extractLsb'_toNat, Nat.shiftRight_eq_div_pow]

theorem headerFlags_toNat (h : Word) : (headerFlags h).toNat = h.toNat % 2 ^ 8 := by
  simp [headerFlags, BitVec.extractLsb'_toNat]

theorem header_toNat (o : Opcode) (f : Byte) :
    (header o f).toNat = o.code.toNat * 2 ^ 24 + f.toNat := by
  have h₁ := o.code.isLt
  have h₂ := f.isLt
  simp only [header, BitVec.toNat_ofNat]; omega

@[simp] theorem headerOpcode_header (o : Opcode) (f : Byte) : headerOpcode (header o f) = o.code := by
  have h₁ := o.code.isLt
  have h₂ := f.isLt
  apply BitVec.eq_of_toNat_eq
  rw [headerOpcode_toNat, header_toNat]; omega

@[simp] theorem headerZero_header (o : Opcode) (f : Byte) : headerZero (header o f) = 0 := by
  have h₂ := f.isLt
  apply BitVec.eq_of_toNat_eq
  rw [headerZero_toNat, header_toNat]; simp; omega

@[simp] theorem headerFlags_header (o : Opcode) (f : Byte) : headerFlags (header o f) = f := by
  have h₂ := f.isLt
  apply BitVec.eq_of_toNat_eq
  rw [headerFlags_toNat, header_toNat]; omega

/-- A header is determined by its fields; a zero middle field makes it one the encoder writes. -/
theorem eq_header_of_fields {h : Word} {o : Opcode} (ho : o.code = headerOpcode h) (hz : headerZero h = 0) :
    h = header o (headerFlags h) := by
  have hlt := h.isLt
  have hz' := congrArg BitVec.toNat hz
  rw [headerZero_toNat] at hz'
  apply BitVec.eq_of_toNat_eq
  rw [header_toNat, ho, headerOpcode_toNat, headerFlags_toNat]
  simp at hz'; omega

@[simp] theorem flagByte_bit0 (a b : Bool) : (flagByte a b)[0] = a := by
  cases a <;> cases b <;> decide

@[simp] theorem flagByte_bit1 (a b : Bool) : (flagByte a b)[1] = b := by
  cases a <;> cases b <;> decide

/-- What the decoder has checked when it answers an operation. -/
theorem decode_ok {p : Packet} {i : Instr} (h : decode p = .ok i) :
    ∃ o, Opcode.ofByte? (headerOpcode p.header) = some o ∧ headerZero p.header = 0 ∧
      headerFlags p.header &&& ~~~o.flagMask = 0 ∧
      assemble o (headerFlags p.header) p.operands = some i := by
  unfold decode at h
  split at h
  · cases h
  rename_i o ho
  split at h
  · cases h
  rename_i hz
  split at h
  · cases h
  rename_i hf
  split at h
  · cases h
  rename_i i' hi
  cases h
  exact ⟨o, ho, Decidable.not_not.1 hz, Decidable.not_not.1 hf, hi⟩

theorem decode_of_fields {p : Packet} {o : Opcode} {i : Instr}
    (ho : Opcode.ofByte? (headerOpcode p.header) = some o) (hz : headerZero p.header = 0)
    (hf : headerFlags p.header &&& ~~~o.flagMask = 0)
    (hi : assemble o (headerFlags p.header) p.operands = some i) : decode p = .ok i := by
  simp only [decode, ho]
  rw [if_neg (by simp [hz]), if_neg (by simp only [hf]; decide), hi]

/-- An operation assembled from words has that opcode and those words. -/
theorem assemble_some {o : Opcode} {f : Byte} {ws : List Word} {i : Instr}
    (h : assemble o f ws = some i) : i.opcode = o ∧ i.operands = ws := by
  cases o <;> simp only [assemble] at h <;> split at h <;>
    first | cases h; exact ⟨rfl, rfl⟩ | cases h

/-- Assembly fails only on the number of words (R77, R79). -/
theorem assemble_isSome (o : Opcode) (f : Byte) (ws : List Word) :
    (assemble o f ws).isSome = (ws.length == o.operandCount) := by
  rcases ws with _ | ⟨a, _ | ⟨b, _ | ⟨c, _ | ⟨d, _ | ⟨e, _ | ⟨g, ws⟩⟩⟩⟩⟩⟩ <;> cases o <;>
    simp [assemble, Opcode.operandCount]

theorem Instr.operands_length (i : Instr) : i.operands.length = i.opcode.operandCount := by
  cases i <;> rfl

end Sys2Proof
end

