-- ==== Sys2Proof/Laws/Ops.lean ====
section
/-! SUPPORT. What the shared operations do: saturating arithmetic, the edge word, the edge store. -/

namespace Sys2Proof.Machine

/-! ### Arithmetic -/

theorem sat32_toNat (x : Nat) : (sat32 x).toNat = min x (2 ^ 32 - 1) := by
  simp only [sat32, BitVec.toNat_ofNat]; omega

theorem satAdd_toNat (a b : Word) : (satAdd a b).toNat = min (a.toNat + b.toNat) (2 ^ 32 - 1) :=
  sat32_toNat _

theorem clampSub_toNat (v tol : Word) : (clampSub v tol).toNat = v.toNat - tol.toNat := by
  unfold clampSub
  split <;> rename_i h <;> bv_omega

theorem effectiveCapacity_toNat (r c : Word) :
    (effectiveCapacity r c).toNat = min r.toNat c.toNat := by
  unfold effectiveCapacity
  split <;> rename_i h <;> bv_omega

theorem effectiveCapacity_le (r c : Word) : effectiveCapacity r c ≤ c := by
  rw [BitVec.le_def, effectiveCapacity_toNat]; omega

theorem saturateDuration_toNat (w : Word) :
    (saturateDuration w).toNat = min w.toNat (2 ^ 31 - 1) := by
  simp only [saturateDuration, BitVec.toNat_ofNat]; omega

theorem copiedEdges_eq (count maxN offset : Word) :
    copiedEdges count maxN offset = min maxN.toNat (count.toNat - offset.toNat) := by
  unfold copiedEdges
  split <;> rename_i h <;> bv_omega

/-- The copied range lies inside the valid region (R133). -/
theorem copiedEdges_inside (count maxN offset : Word) (h : copiedEdges count maxN offset ≠ 0) :
    offset.toNat + copiedEdges count maxN offset ≤ count.toNat := by
  rw [copiedEdges_eq] at *; omega

/-! ### The edge word -/

theorem pack_toNat (e : Edge) :
    (pack e).toNat = (if e.isHigh then 2 ^ 31 else 0) + e.durationNs.toNat := by
  have hd := e.durationNs.isLt
  simp only [pack, BitVec.toNat_ofNat]
  split <;> omega

theorem unpack_isHigh (w : Word) : (unpack w).isHigh = decide (2 ^ 31 ≤ w.toNat) := by
  have := BitVec.msb_eq_decide w
  rwa [BitVec.msb_eq_getLsbD_last] at this

theorem unpack_durationNs_toNat (w : Word) : (unpack w).durationNs.toNat = w.toNat % 2 ^ 31 := by
  simp [unpack, BitVec.extractLsb'_toNat]

theorem unpack_pack (e : Edge) : unpack (pack e) = e := by
  have hd := e.durationNs.isLt
  have hh : (unpack (pack e)).isHigh = e.isHigh := by
    rw [unpack_isHigh, pack_toNat]
    cases e.isHigh
    · simpa using hd
    · simp
  have hn : (unpack (pack e)).durationNs = e.durationNs := by
    apply BitVec.eq_of_toNat_eq
    rw [unpack_durationNs_toNat, pack_toNat]
    split <;> omega
  cases e; cases h : unpack (pack _); simp_all

theorem pack_unpack (w : Word) : pack (unpack w) = w := by
  apply BitVec.eq_of_toNat_eq
  have := w.isLt
  rw [pack_toNat, unpack_isHigh, unpack_durationNs_toNat]
  simp only [decide_eq_true_eq]
  split <;> omega

/-! ### The edge store -/

namespace Memory

theorem read_write_same (m : Memory) (a : Nat) (w : Word) : (m.write a w).read a = some w := by
  induction m with
  | nil => simp [write, read]
  | cons c m ih =>
    obtain ⟨b, v⟩ := c
    simp only [write]
    split
    · simp [read]
    · split
      · simp [read]
      · simp [read, *]

theorem read_write_other (m : Memory) {a b : Nat} (w : Word) (h : b ≠ a) :
    (m.write a w).read b = m.read b := by
  induction m with
  | nil => simp [write, read, h]
  | cons c m ih =>
    obtain ⟨k, v⟩ := c
    simp only [write]
    split
    · simp [read, h]
    · split
      · subst_vars; simp [read, h]
      · simp [read, ih]

theorem mem_write {m : Memory} {a : Nat} {w : Word} {x : Nat × Word} (h : x ∈ m.write a w) :
    x = (a, w) ∨ x ∈ m := by
  induction m with
  | nil => simpa [write] using h
  | cons c m ih =>
    obtain ⟨k, v⟩ := c
    simp only [write] at h
    split at h
    · simpa using h
    · split at h <;> simp only [List.mem_cons] at h ⊢ <;> tauto

/-- A write keeps the canonical form. -/
theorem wf_write {m : Memory} (hm : m.wf) (a : Nat) (w : Word) : (m.write a w).wf := by
  induction m with
  | nil => simp [write, wf]
  | cons c m ih =>
    obtain ⟨k, v⟩ := c
    have hk := List.pairwise_cons.1 hm
    simp only [write]
    split
    · rename_i h
      refine List.pairwise_cons.2 ⟨fun x hx => ?_, hm⟩
      rcases List.mem_cons.1 hx with rfl | hx
      · exact h
      · exact Nat.lt_trans h (hk.1 x hx)
    · split
      · rename_i h
        exact List.pairwise_cons.2 ⟨fun x hx => h ▸ hk.1 x hx, hk.2⟩
      · rename_i h h'
        refine List.pairwise_cons.2 ⟨fun x hx => ?_, ih hk.2⟩
        rcases mem_write hx with rfl | hx
        · exact (by omega : k < a)
        · exact hk.1 x hx

theorem wf_nil : Memory.wf [] := List.Pairwise.nil

/-- A write above every listed slot appends. -/
theorem write_above (m : Memory) (a : Nat) (w : Word) (h : ∀ x ∈ m, x.1 < a) :
    m.write a w = m ++ [(a, w)] := by
  induction m with
  | nil => rfl
  | cons c m ih =>
    obtain ⟨k, v⟩ := c
    have hk : k < a := h (k, v) (by simp)
    simp only [write, List.cons_append]
    rw [if_neg (by omega), if_neg (by omega), ih fun x hx => h x (by simp [hx])]

theorem read_none_of_fresh (m : Memory) (a : Nat) (h : ∀ x ∈ m, x.1 ≠ a) : m.read a = none := by
  induction m with
  | nil => rfl
  | cons c m ih =>
    obtain ⟨k, v⟩ := c
    have hk : k ≠ a := h (k, v) (by simp)
    simp only [read]
    rw [if_neg (by omega), ih fun x hx => h x (by simp [hx])]

/-- A store that lists the slots `i, i+1, …` in order reads slot `i + j` as its entry `j`. -/
theorem read_of_range' (m : Memory) (i n j : Nat) (h : m.map Prod.fst = List.range' i n) :
    m.read (i + j) = (m.map Prod.snd)[j]? := by
  induction m generalizing i n j with
  | nil => simp [read]
  | cons c m ih =>
    obtain ⟨k, v⟩ := c
    cases n with
    | zero => simp at h
    | succ n =>
      simp only [List.map_cons, List.range'_succ, List.cons.injEq] at h
      obtain ⟨rfl, h⟩ := h
      cases j with
      | zero => simp [read]
      | succ j =>
        have := ih (k + 1) n j h
        simp only [read]
        rw [if_neg (by omega), show k + (j + 1) = k + 1 + j by omega, this]
        simp

end Memory

/-- A write that lands: the slot exists, the canonical form stays, that slot reads the word, every other
slot reads as before. -/
theorem memWrite_ok {m m' : Memory} {c : Word} {i : Nat} {w : Word} (h : memWrite m c i w = .ok m') :
    i < c.toNat ∧ m' = m.write i w ∧ (m.wf → m'.wf) ∧ m'.read i = some w ∧
      ∀ j, j ≠ i → m'.read j = m.read j := by
  unfold memWrite at h
  split at h
  · rename_i hi
    cases h
    exact ⟨hi, rfl, fun hm => Memory.wf_write hm i w, Memory.read_write_same m i w,
      fun j hj => Memory.read_write_other m w hj⟩
  · cases h

theorem memWrite_inside (m : Memory) {c : Word} {i : Nat} (w : Word) (h : i < c.toNat) :
    memWrite m c i w = .ok (m.write i w) := if_pos h

theorem readSlot_eq_ok {m : Memory} {c : Word} {i : Nat} {w : Word} :
    readSlot m c i = .ok w ↔ i < c.toNat ∧ m.read i = some w := by
  unfold readSlot
  split <;> rename_i h
  · cases m.read i <;> simp [h]
  · simp [h]

/-- A read that succeeds: as many words as asked for, each the word of its slot. -/
theorem memRead_ok {m : Memory} {c : Word} {i n : Nat} {ws : List Word} (h : memRead m c i n = .ok ws) :
    ws.length = n ∧ ∀ j, j < n → i + j < c.toNat ∧ m.read (i + j) = ws[j]? := by
  induction n generalizing i ws with
  | zero => cases h; simp
  | succ n ih =>
    unfold memRead at h
    split at h
    · cases h
    rename_i w hw
    split at h
    · cases h
    rename_i ws' hws
    cases h
    obtain ⟨hl, hr⟩ := ih hws
    obtain ⟨hi, hrd⟩ := readSlot_eq_ok.1 hw
    refine ⟨by simp [hl], fun j hj => ?_⟩
    cases j with
    | zero => exact ⟨hi, by simpa using hrd⟩
    | succ j =>
      have := hr j (by omega)
      rw [show i + (j + 1) = i + 1 + j by omega]
      simpa using this

/-- A read whose slots all exist and hold values succeeds. -/
theorem memRead_total {m : Memory} {c : Word} {i n : Nat}
    (h : ∀ j, j < n → i + j < c.toNat ∧ (m.read (i + j)).isSome) : ∃ ws, memRead m c i n = .ok ws := by
  induction n generalizing i with
  | zero => exact ⟨[], rfl⟩
  | succ n ih =>
    obtain ⟨hi, hs⟩ := h 0 (by omega)
    obtain ⟨w, hw⟩ := Option.isSome_iff_exists.1 hs
    have hslot : readSlot m c i = .ok w := readSlot_eq_ok.2 ⟨hi, hw⟩
    obtain ⟨ws, hws⟩ := ih (i := i + 1) fun j hj => by
      have := h (j + 1) (by omega)
      rwa [show i + (j + 1) = i + 1 + j by omega] at this
    exact ⟨w :: ws, by simp [memRead, hslot, hws]⟩

end Sys2Proof.Machine
end

