-- ==== Sys2Proof/Laws/Decoder.lean ====
section
/-! SUPPORT. The decoder's small lemmas: the comparator in plain numbers, the pair loop one pair at a time,
alignment, and the function's four outcomes. -/

namespace Sys2Proof.Machine

theorem inWindow_iff {lo hi : Word} {d : Duration} :
    inWindow lo hi d = true ↔ lo.toNat ≤ d.toNat ∧ d.toNat ≤ hi.toNat := by
  simp [inWindow]

theorem matchesGap_iff {p : Profile} {l : Duration} :
    matchesGap p l = true ↔
      0 < p.gapToleranceNs.toNat ∧ p.resetMinUs.toNat * 1000 < l.toNat ∧ l.toNat < p.gapToleranceNs.toNat := by
  simp only [matchesGap, Bool.and_eq_true, decide_eq_true_eq, and_assoc]
  rfl

/-! ### The pair loop -/

theorem decodePairs_nil (p : Profile) (a : Accumulator) : decodePairs p [] a = a := rfl

theorem decodePairs_one (p : Profile) (e : Edge) (a : Accumulator) : decodePairs p [e] a = a := rfl

theorem decodePairs_stop {p : Profile} {x y : Edge} (h : classify p x.durationNs y.durationNs = .stop)
    (rest : List Edge) (a : Accumulator) : decodePairs p (x :: y :: rest) a = a := by
  simp [decodePairs, h]

theorem decodePairs_gap {p : Profile} {x y : Edge} (h : classify p x.durationNs y.durationNs = .gap)
    (rest : List Edge) (a : Accumulator) :
    decodePairs p (x :: y :: rest) a = decodePairs p rest a := by
  simp [decodePairs, h]

theorem decodePairs_bit0 {p : Profile} {x y : Edge} (h : classify p x.durationNs y.durationNs = .bit0)
    (rest : List Edge) (a : Accumulator) :
    decodePairs p (x :: y :: rest) a = decodePairs p rest (a.shiftIn false) := by
  simp [decodePairs, h]

theorem decodePairs_bit1 {p : Profile} {x y : Edge} (h : classify p x.durationNs y.durationNs = .bit1)
    (rest : List Edge) (a : Accumulator) :
    decodePairs p (x :: y :: rest) a = decodePairs p rest (a.shiftIn true) := by
  simp [decodePairs, h]

/-! ### Alignment -/

theorem alignEdges_cons_match {spl : Bool} {e : Edge} (h : e.isHigh = spl) (es : List Edge) :
    alignEdges spl (e :: es) = e :: es := by
  simp [alignEdges, h]

theorem alignEdges_cons_skip {spl : Bool} {e : Edge} (h : e.isHigh ≠ spl) (es : List Edge) :
    alignEdges spl (e :: es) = alignEdges spl es := by
  simp [alignEdges, h]

/-- Edges behind an aligned one stay behind it (R153). -/
theorem alignEdges_append {spl : Bool} {es : List Edge} (h : alignEdges spl es ≠ []) (l : List Edge) :
    alignEdges spl (es ++ l) = alignEdges spl es ++ l := by
  induction es with
  | nil => exact absurd rfl h
  | cons e es ih =>
    rw [List.cons_append]
    by_cases he : e.isHigh = spl
    · rw [alignEdges_cons_match he, alignEdges_cons_match he, List.cons_append]
    · rw [alignEdges_cons_skip he] at h ⊢
      rw [alignEdges_cons_skip he, ih h]

/-! ### The function -/

theorem decodeEdges_nil (p : Profile) (spl : Bool) (n : Word) :
    decodeEdges [] p spl n = .err .invalidArgument := rfl

/-- On a non-empty input only the number of completed bytes matters: a failed alignment completes none. -/
theorem decodeEdges_cons (e : Edge) (es : List Edge) (p : Profile) (spl : Bool) (n : Word) :
    decodeEdges (e :: es) p spl n =
      if n.toNat < (decodedBytes (e :: es) p spl).length then .err .bufferOverflow
      else .ok (decodedBytes (e :: es) p spl) := by
  have hb (h : alignEdges spl (e :: es) = []) : decodedBytes (e :: es) p spl = [] := by
    simp [decodedBytes, h, decodePairs_nil, Accumulator.empty]
  unfold decodeEdges
  cases h : alignEdges spl (e :: es) with
  | nil => simp [hb h]
  | cons _ _ => simp

end Sys2Proof.Machine
end

