-- ==== Sys2Proof/Laws/PerInstr.lean ====
section
/-! SUPPORT. Facts about every operation as syntax, one lemma per constructor. -/

namespace Sys2Proof.Laws.EncodeLegal

/-- The packet of an operation is a legal command, whatever its operand words hold (R77, R78). -/
def Statement (i : Instr) : Prop := (encode i).isLegal = true

/-- Legality looks at the header and at the number of words only. -/
theorem of_zeros {i : Instr} {o : Opcode} {f : Byte} (ho : i.opcode = o) (hf : i.flags = f)
    (hz : Packet.isLegal ⟨header o f, List.replicate o.operandCount 0⟩ = true) : Statement i := by
  have hl := i.operands_length
  subst ho hf
  simpa [Statement, encode, Packet.isLegal, hl] using hz

theorem buildProfile (dt : Bool) (t1Ns t2Ns t3Ns resetUs toleranceNs : Word) :
    Statement (.buildProfile dt t1Ns t2Ns t3Ns resetUs toleranceNs) :=
  of_zeros (o := .buildProfile) (f := flagByte dt false) rfl rfl (by cases dt <;> decide)

theorem setGapTolerance (gapToleranceNs : Word) :
    Statement (.setGapTolerance gapToleranceNs) :=
  of_zeros (o := .setGapTolerance) (f := 0) rfl rfl (by decide)

theorem getProfile : Statement .getProfile := of_zeros (o := .getProfile) (f := 0) rfl rfl (by decide)

theorem configure (ovr spl : Bool)
    (bufferCapacity signalRangeMinNs signalRangeMaxNs skipSignals overrideCapacity : Word) :
    Statement (.configure ovr spl bufferCapacity signalRangeMinNs signalRangeMaxNs skipSignals
      overrideCapacity) :=
  of_zeros (o := .configure) (f := flagByte ovr spl) rfl rfl (by cases ovr <;> cases spl <;> decide)

theorem pushEdge (hi : Bool) (durationNs : Word) :
    Statement (.pushEdge hi durationNs) :=
  of_zeros (o := .pushEdge) (f := flagByte hi false) rfl rfl (by cases hi <;> decide)

theorem finish : Statement .finish := of_zeros (o := .finish) (f := 0) rfl rfl (by decide)

theorem bufReset : Statement .bufReset := of_zeros (o := .bufReset) (f := 0) rfl rfl (by decide)

theorem edgeCount : Statement .edgeCount := of_zeros (o := .edgeCount) (f := 0) rfl rfl (by decide)

theorem isFinished : Statement .isFinished := of_zeros (o := .isFinished) (f := 0) rfl rfl (by decide)

theorem bufferCapacity : Statement .bufferCapacity := of_zeros (o := .bufferCapacity) (f := 0) rfl rfl (by decide)

theorem getRawEdges (maxN offset : Word) :
    Statement (.getRawEdges maxN offset) :=
  of_zeros (o := .getRawEdges) (f := 0) rfl rfl (by decide)

theorem getConfig : Statement .getConfig := of_zeros (o := .getConfig) (f := 0) rfl rfl (by decide)

theorem decode (spl : Bool) (outLen : Word) :
    Statement (.decode spl outLen) :=
  of_zeros (o := .decode) (f := flagByte spl false) rfl rfl (by cases spl <;> decide)

end Sys2Proof.Laws.EncodeLegal
end

