-- ==== Sys2Proof/Laws/State.lean ====
section
/-! SUPPORT. What each update of the state leaves in each field, true by definition, so that no later
proof unfolds a record update. -/

namespace Sys2Proof.Machine

variable (s : State)

@[simp] theorem State.setCount_count (c : Word) : (s.setCount c).count = c := rfl
@[simp] theorem State.setCount_capacity (c : Word) : (s.setCount c).capacity = s.capacity := rfl
@[simp] theorem State.setCount_finished (c : Word) : (s.setCount c).finished = s.finished := rfl
@[simp] theorem State.setCount_cfg (c : Word) : (s.setCount c).cfg = s.cfg := rfl
@[simp] theorem State.setCount_prof (c : Word) : (s.setCount c).prof = s.prof := rfl
@[simp] theorem State.setCount_edge (c : Word) : (s.setCount c).edge = s.edge := rfl
@[simp] theorem State.setCount_capMax (c : Word) : (s.setCount c).capMax = s.capMax := rfl
@[simp] theorem State.setCount_inbox (c : Word) : (s.setCount c).inbox = s.inbox := rfl
@[simp] theorem State.setCount_responses (c : Word) : (s.setCount c).responses = s.responses := rfl

@[simp] theorem State.setCapacity_count (c : Word) : (s.setCapacity c).count = s.count := rfl
@[simp] theorem State.setCapacity_capacity (c : Word) : (s.setCapacity c).capacity = c := rfl
@[simp] theorem State.setCapacity_finished (c : Word) : (s.setCapacity c).finished = s.finished := rfl
@[simp] theorem State.setCapacity_cfg (c : Word) : (s.setCapacity c).cfg = s.cfg := rfl
@[simp] theorem State.setCapacity_prof (c : Word) : (s.setCapacity c).prof = s.prof := rfl
@[simp] theorem State.setCapacity_edge (c : Word) : (s.setCapacity c).edge = s.edge := rfl
@[simp] theorem State.setCapacity_capMax (c : Word) : (s.setCapacity c).capMax = s.capMax := rfl
@[simp] theorem State.setCapacity_inbox (c : Word) : (s.setCapacity c).inbox = s.inbox := rfl
@[simp] theorem State.setCapacity_responses (c : Word) : (s.setCapacity c).responses = s.responses := rfl

@[simp] theorem State.setFinished_count (b : Bool) : (s.setFinished b).count = s.count := rfl
@[simp] theorem State.setFinished_capacity (b : Bool) : (s.setFinished b).capacity = s.capacity := rfl
@[simp] theorem State.setFinished_finished (b : Bool) : (s.setFinished b).finished = b := rfl
@[simp] theorem State.setFinished_cfg (b : Bool) : (s.setFinished b).cfg = s.cfg := rfl
@[simp] theorem State.setFinished_prof (b : Bool) : (s.setFinished b).prof = s.prof := rfl
@[simp] theorem State.setFinished_edge (b : Bool) : (s.setFinished b).edge = s.edge := rfl
@[simp] theorem State.setFinished_capMax (b : Bool) : (s.setFinished b).capMax = s.capMax := rfl
@[simp] theorem State.setFinished_inbox (b : Bool) : (s.setFinished b).inbox = s.inbox := rfl
@[simp] theorem State.setFinished_responses (b : Bool) : (s.setFinished b).responses = s.responses := rfl

@[simp] theorem State.setCfg_count (c : RxConfig) : (s.setCfg c).count = s.count := rfl
@[simp] theorem State.setCfg_capacity (c : RxConfig) : (s.setCfg c).capacity = s.capacity := rfl
@[simp] theorem State.setCfg_finished (c : RxConfig) : (s.setCfg c).finished = s.finished := rfl
@[simp] theorem State.setCfg_cfg (c : RxConfig) : (s.setCfg c).cfg = c := rfl
@[simp] theorem State.setCfg_prof (c : RxConfig) : (s.setCfg c).prof = s.prof := rfl
@[simp] theorem State.setCfg_edge (c : RxConfig) : (s.setCfg c).edge = s.edge := rfl
@[simp] theorem State.setCfg_capMax (c : RxConfig) : (s.setCfg c).capMax = s.capMax := rfl
@[simp] theorem State.setCfg_inbox (c : RxConfig) : (s.setCfg c).inbox = s.inbox := rfl
@[simp] theorem State.setCfg_responses (c : RxConfig) : (s.setCfg c).responses = s.responses := rfl

@[simp] theorem State.setProf_count (p : Profile) : (s.setProf p).count = s.count := rfl
@[simp] theorem State.setProf_capacity (p : Profile) : (s.setProf p).capacity = s.capacity := rfl
@[simp] theorem State.setProf_finished (p : Profile) : (s.setProf p).finished = s.finished := rfl
@[simp] theorem State.setProf_cfg (p : Profile) : (s.setProf p).cfg = s.cfg := rfl
@[simp] theorem State.setProf_prof (p : Profile) : (s.setProf p).prof = p := rfl
@[simp] theorem State.setProf_edge (p : Profile) : (s.setProf p).edge = s.edge := rfl
@[simp] theorem State.setProf_capMax (p : Profile) : (s.setProf p).capMax = s.capMax := rfl
@[simp] theorem State.setProf_inbox (p : Profile) : (s.setProf p).inbox = s.inbox := rfl
@[simp] theorem State.setProf_responses (p : Profile) : (s.setProf p).responses = s.responses := rfl

@[simp] theorem State.setGapTolerance_count (g : Word) : (s.setGapTolerance g).count = s.count := rfl
@[simp] theorem State.setGapTolerance_capacity (g : Word) : (s.setGapTolerance g).capacity = s.capacity := rfl
@[simp] theorem State.setGapTolerance_finished (g : Word) : (s.setGapTolerance g).finished = s.finished := rfl
@[simp] theorem State.setGapTolerance_cfg (g : Word) : (s.setGapTolerance g).cfg = s.cfg := rfl
@[simp] theorem State.setGapTolerance_prof (g : Word) : (s.setGapTolerance g).prof = { s.prof with gapToleranceNs := g } := rfl
@[simp] theorem State.setGapTolerance_edge (g : Word) : (s.setGapTolerance g).edge = s.edge := rfl
@[simp] theorem State.setGapTolerance_capMax (g : Word) : (s.setGapTolerance g).capMax = s.capMax := rfl
@[simp] theorem State.setGapTolerance_inbox (g : Word) : (s.setGapTolerance g).inbox = s.inbox := rfl
@[simp] theorem State.setGapTolerance_responses (g : Word) : (s.setGapTolerance g).responses = s.responses := rfl

@[simp] theorem State.setEdge_count (m : Memory) : (s.setEdge m).count = s.count := rfl
@[simp] theorem State.setEdge_capacity (m : Memory) : (s.setEdge m).capacity = s.capacity := rfl
@[simp] theorem State.setEdge_finished (m : Memory) : (s.setEdge m).finished = s.finished := rfl
@[simp] theorem State.setEdge_cfg (m : Memory) : (s.setEdge m).cfg = s.cfg := rfl
@[simp] theorem State.setEdge_prof (m : Memory) : (s.setEdge m).prof = s.prof := rfl
@[simp] theorem State.setEdge_edge (m : Memory) : (s.setEdge m).edge = m := rfl
@[simp] theorem State.setEdge_capMax (m : Memory) : (s.setEdge m).capMax = s.capMax := rfl
@[simp] theorem State.setEdge_inbox (m : Memory) : (s.setEdge m).inbox = s.inbox := rfl
@[simp] theorem State.setEdge_responses (m : Memory) : (s.setEdge m).responses = s.responses := rfl

@[simp] theorem State.setInbox_count (q : List Event) : (s.setInbox q).count = s.count := rfl
@[simp] theorem State.setInbox_capacity (q : List Event) : (s.setInbox q).capacity = s.capacity := rfl
@[simp] theorem State.setInbox_finished (q : List Event) : (s.setInbox q).finished = s.finished := rfl
@[simp] theorem State.setInbox_cfg (q : List Event) : (s.setInbox q).cfg = s.cfg := rfl
@[simp] theorem State.setInbox_prof (q : List Event) : (s.setInbox q).prof = s.prof := rfl
@[simp] theorem State.setInbox_edge (q : List Event) : (s.setInbox q).edge = s.edge := rfl
@[simp] theorem State.setInbox_capMax (q : List Event) : (s.setInbox q).capMax = s.capMax := rfl
@[simp] theorem State.setInbox_inbox (q : List Event) : (s.setInbox q).inbox = q := rfl
@[simp] theorem State.setInbox_responses (q : List Event) : (s.setInbox q).responses = s.responses := rfl

@[simp] theorem State.setsFinished_count : s.setsFinished.count = s.count := rfl
@[simp] theorem State.setsFinished_capacity : s.setsFinished.capacity = s.capacity := rfl
@[simp] theorem State.setsFinished_finished : s.setsFinished.finished = true := rfl
@[simp] theorem State.setsFinished_cfg : s.setsFinished.cfg = s.cfg := rfl
@[simp] theorem State.setsFinished_prof : s.setsFinished.prof = s.prof := rfl
@[simp] theorem State.setsFinished_edge : s.setsFinished.edge = s.edge := rfl
@[simp] theorem State.setsFinished_capMax : s.setsFinished.capMax = s.capMax := rfl
@[simp] theorem State.setsFinished_inbox : s.setsFinished.inbox = s.inbox := rfl
@[simp] theorem State.setsFinished_responses : s.setsFinished.responses = s.responses := rfl

@[simp] theorem State.emptyBuffer_count : s.emptyBuffer.count = 0 := rfl
@[simp] theorem State.emptyBuffer_capacity : s.emptyBuffer.capacity = s.capacity := rfl
@[simp] theorem State.emptyBuffer_finished : s.emptyBuffer.finished = false := rfl
@[simp] theorem State.emptyBuffer_cfg : s.emptyBuffer.cfg = s.cfg := rfl
@[simp] theorem State.emptyBuffer_prof : s.emptyBuffer.prof = s.prof := rfl
@[simp] theorem State.emptyBuffer_edge : s.emptyBuffer.edge = [] := rfl
@[simp] theorem State.emptyBuffer_capMax : s.emptyBuffer.capMax = s.capMax := rfl
@[simp] theorem State.emptyBuffer_inbox : s.emptyBuffer.inbox = s.inbox := rfl
@[simp] theorem State.emptyBuffer_responses : s.emptyBuffer.responses = s.responses := rfl

@[simp] theorem State.hardwareReset_count : s.hardwareReset.count = 0 := rfl
@[simp] theorem State.hardwareReset_capacity : s.hardwareReset.capacity = 0 := rfl
@[simp] theorem State.hardwareReset_finished : s.hardwareReset.finished = false := rfl
@[simp] theorem State.hardwareReset_cfg : s.hardwareReset.cfg = .zero := rfl
@[simp] theorem State.hardwareReset_prof : s.hardwareReset.prof = .zero := rfl
@[simp] theorem State.hardwareReset_edge : s.hardwareReset.edge = [] := rfl
@[simp] theorem State.hardwareReset_capMax : s.hardwareReset.capMax = s.capMax := rfl
@[simp] theorem State.hardwareReset_inbox : s.hardwareReset.inbox = s.inbox := rfl
@[simp] theorem State.hardwareReset_responses : s.hardwareReset.responses = s.responses := rfl

@[simp] theorem State.respond_count (r : Response) : (s.respond r).count = s.count := rfl
@[simp] theorem State.respond_capacity (r : Response) : (s.respond r).capacity = s.capacity := rfl
@[simp] theorem State.respond_finished (r : Response) : (s.respond r).finished = s.finished := rfl
@[simp] theorem State.respond_cfg (r : Response) : (s.respond r).cfg = s.cfg := rfl
@[simp] theorem State.respond_prof (r : Response) : (s.respond r).prof = s.prof := rfl
@[simp] theorem State.respond_edge (r : Response) : (s.respond r).edge = s.edge := rfl
@[simp] theorem State.respond_capMax (r : Response) : (s.respond r).capMax = s.capMax := rfl
@[simp] theorem State.respond_inbox (r : Response) : (s.respond r).inbox = s.inbox := rfl
@[simp] theorem State.respond_responses (r : Response) : (s.respond r).responses = s.responses ++ [r] := rfl

@[simp] theorem State.answer_count (ws : List Word) (p : Payload) : (s.answer ws p).count = s.count := rfl
@[simp] theorem State.answer_capacity (ws : List Word) (p : Payload) : (s.answer ws p).capacity = s.capacity := rfl
@[simp] theorem State.answer_finished (ws : List Word) (p : Payload) : (s.answer ws p).finished = s.finished := rfl
@[simp] theorem State.answer_cfg (ws : List Word) (p : Payload) : (s.answer ws p).cfg = s.cfg := rfl
@[simp] theorem State.answer_prof (ws : List Word) (p : Payload) : (s.answer ws p).prof = s.prof := rfl
@[simp] theorem State.answer_edge (ws : List Word) (p : Payload) : (s.answer ws p).edge = s.edge := rfl
@[simp] theorem State.answer_capMax (ws : List Word) (p : Payload) : (s.answer ws p).capMax = s.capMax := rfl
@[simp] theorem State.answer_inbox (ws : List Word) (p : Payload) : (s.answer ws p).inbox = s.inbox := rfl
@[simp] theorem State.answer_responses (ws : List Word) (p : Payload) : (s.answer ws p).responses = s.responses ++ [⟨Status.ok.word, ws, p⟩] := rfl

@[simp] theorem State.raise_count (e : Status) : (s.raise e).count = s.count := rfl
@[simp] theorem State.raise_capacity (e : Status) : (s.raise e).capacity = s.capacity := rfl
@[simp] theorem State.raise_finished (e : Status) : (s.raise e).finished = s.finished := rfl
@[simp] theorem State.raise_cfg (e : Status) : (s.raise e).cfg = s.cfg := rfl
@[simp] theorem State.raise_prof (e : Status) : (s.raise e).prof = s.prof := rfl
@[simp] theorem State.raise_edge (e : Status) : (s.raise e).edge = s.edge := rfl
@[simp] theorem State.raise_capMax (e : Status) : (s.raise e).capMax = s.capMax := rfl
@[simp] theorem State.raise_inbox (e : Status) : (s.raise e).inbox = s.inbox := rfl
@[simp] theorem State.raise_responses (e : Status) : (s.raise e).responses = s.responses ++ [⟨e.word, [], .none⟩] := rfl

@[simp] theorem State.withFetchWord_count (n w : Nat) : (s.withFetchWord n w).count = s.count := rfl
@[simp] theorem State.withFetchWord_capacity (n w : Nat) : (s.withFetchWord n w).capacity = s.capacity := rfl
@[simp] theorem State.withFetchWord_finished (n w : Nat) : (s.withFetchWord n w).finished = s.finished := rfl
@[simp] theorem State.withFetchWord_cfg (n w : Nat) : (s.withFetchWord n w).cfg = s.cfg := rfl
@[simp] theorem State.withFetchWord_prof (n w : Nat) : (s.withFetchWord n w).prof = s.prof := rfl
@[simp] theorem State.withFetchWord_edge (n w : Nat) : (s.withFetchWord n w).edge = s.edge := rfl
@[simp] theorem State.withFetchWord_capMax (n w : Nat) : (s.withFetchWord n w).capMax = s.capMax := rfl
@[simp] theorem State.withFetchWord_inbox (n w : Nat) : (s.withFetchWord n w).inbox = .command (tablePacket n w) :: s.inbox := rfl
@[simp] theorem State.withFetchWord_responses (n w : Nat) : (s.withFetchWord n w).responses = s.responses := rfl

@[simp] theorem State.finishedOutput_eq : s.finishedOutput = s.finished := rfl

end Sys2Proof.Machine
end

