-- ==== Sys2Proof/Laws/Step.lean ====
section
/-! SUPPORT. What each meaning and one step can do, said once, and what the buffer invariant gives the
edge-store accesses. Later proofs cite these and unfold no meaning. -/

namespace Sys2Proof.Machine

/-! ### The meanings that reach the edge store -/

/-- A push that answers a next state: appended while there was room, else rejected (R124, R126). -/
theorem execPushEdge_next {hi : Bool} {d : Word} {s t : State} (h : execPushEdge hi d s = .next t) :
    (s.count < s.capacity ∧ s.count.toNat < s.capMax.toNat ∧
      t = ((s.setEdge (s.edge.write s.count.toNat (pack (pushedEdge hi d)))).setCount
            (s.count + 1)).answer [1] .none) ∨
    (¬ s.count < s.capacity ∧ t = (s.setFinished true).answer [0] .none) := by
  unfold execPushEdge State.hasRoom at h
  by_cases hr : s.count < s.capacity
  · left
    simp only [hr, decide_true, if_true] at h
    split at h
    · cases h
    · rename_i m hm
      cases h
      obtain ⟨hi, rfl, -⟩ := memWrite_ok hm
      exact ⟨hr, hi, rfl⟩
  · right
    simp only [hr, decide_false, Bool.false_eq_true, if_false] at h
    cases h
    exact ⟨hr, rfl⟩

/-- `GET_RAW_EDGES` that answers a next state only answers (R133). -/
theorem execGetRawEdges_next {n off : Word} {s t : State} (h : execGetRawEdges n off s = .next t) :
    ∃ ws, memRead s.edge s.capMax off.toNat (copiedEdges s.count n off) = .ok ws ∧
      t = s.answer [BitVec.ofNat 32 (copiedEdges s.count n off)] (.edges ws) := by
  unfold execGetRawEdges at h
  dsimp only at h
  split at h
  · cases h
  · rename_i ws hws
    cases h
    exact ⟨ws, hws, rfl⟩

/-- `DECODE` that answers a next state only answers: the bytes, or the error kind (R151). -/
theorem execDecode_next {spl : Bool} {n : Word} {s t : State} (h : execDecode spl n s = .next t) :
    ∃ ws, memRead s.edge s.capMax 0 s.count.toNat = .ok ws ∧
      ((∃ bs, decodeEdges (ws.map unpack) s.prof spl n = .ok bs ∧
          t = s.answer [BitVec.ofNat 32 bs.length] (.bytes bs)) ∨
       (∃ e, decodeEdges (ws.map unpack) s.prof spl n = .err e ∧ t = s.raise e.status)) := by
  unfold execDecode at h
  split at h
  · cases h
  rename_i ws hws
  refine ⟨ws, hws, ?_⟩
  split at h
  · rename_i bs hb
    cases h
    exact .inl ⟨bs, hb, rfl⟩
  · rename_i e he
    cases h
    exact .inr ⟨e, he, rfl⟩

/-- A push while there is room and the slot exists (R124, R125). -/
theorem execPushEdge_room {s : State} (hi : Bool) (d : Word) (h : s.count < s.capacity)
    (hc : s.count.toNat < s.capMax.toNat) :
    execPushEdge hi d s = .next (((s.setEdge (s.edge.write s.count.toNat (pack (pushedEdge hi d)))).setCount
      (s.count + 1)).answer [1] .none) := by
  simp [execPushEdge, State.hasRoom, h, memWrite_inside s.edge _ hc, boolWord]

/-- A push without room (R126). -/
theorem execPushEdge_full {s : State} (hi : Bool) (d : Word) (h : ¬ s.count < s.capacity) :
    execPushEdge hi d s = .next ((s.setFinished true).answer [0] .none) := by
  simp [execPushEdge, State.hasRoom, h, boolWord, State.setsFinished]

/-- `DECODE` on an empty buffer (R152). -/
theorem execDecode_empty {s : State} (spl : Bool) (n : Word) (h : s.count = 0) :
    execDecode spl n s = .next (s.raise .invalidArgument) := by
  simp [execDecode, h, memRead, decodeEdges, DecodeError.status]

/-! ### One step -/

/-- Everything a step that answers a next state can have been (R57, R77, R195, R200). -/
theorem step_cases {s t : State} (h : step s = .next t) :
    (s.inbox = [] ∧ t = s) ∨
    (∃ p rest i, s.inbox = .command p :: rest ∧ decode p = .ok i ∧ exec i (s.setInbox rest) = .next t) ∨
    (∃ p rest e, s.inbox = .command p :: rest ∧ decode p = .error e ∧
      t = (s.setInbox rest).raise .illegalCommand) ∨
    (∃ rest, s.inbox = .hardwareReset :: rest ∧ t = (s.setInbox rest).hardwareReset) := by
  unfold step at h
  split at h
  · rename_i hi
    cases h
    exact .inl ⟨hi, rfl⟩
  · rename_i p rest hi
    split at h
    · rename_i i hd
      exact .inr (.inl ⟨p, rest, i, hi, hd, h⟩)
    · rename_i e hd
      cases h
      exact .inr (.inr (.inl ⟨p, rest, e, hi, hd, rfl⟩))
  · rename_i rest hi
    cases h
    exact .inr (.inr (.inr ⟨rest, hi, rfl⟩))
  · cases h

theorem step_idle {s : State} (h : s.inbox = []) : step s = .next s := by
  simp [step, h]

theorem step_legal {s : State} {p : Packet} {rest : List Event} {i : Instr}
    (h : s.inbox = .command p :: rest) (hd : decode p = .ok i) : step s = exec i (s.setInbox rest) := by
  simp [step, h, hd]

theorem step_illegal {s : State} {p : Packet} {rest : List Event} {e : Illegal}
    (h : s.inbox = .command p :: rest) (hd : decode p = .error e) :
    step s = .next ((s.setInbox rest).raise .illegalCommand) := by
  simp [step, h, hd]

/-! ### The buffer invariant and the edge store -/

/-- The readable slots are exactly the valid region (R55). -/
theorem State.bufferInv.read_isSome {s : State} (h : s.bufferInv) (i : Nat) :
    (s.edge.read i).isSome = decide (i < s.count.toNat) := by
  have hr := Memory.read_of_range' s.edge 0 s.count.toNat i (by rw [h.2.2, List.range_eq_range'])
  have hl : s.edge.length = s.count.toNat := by
    have := congrArg List.length h.2.2; simpa using this
  rw [Nat.zero_add] at hr
  rw [hr]
  by_cases hi : i < s.count.toNat
  · simp [hl, hi]
  · simp [hl, hi]

theorem State.bufferInv.count_le_capMax {s : State} (h : s.bufferInv) : s.count.toNat ≤ s.capMax.toNat :=
  Nat.le_trans (BitVec.le_def.1 h.1) (BitVec.le_def.1 h.2.1)

/-- A range inside the valid region can be read (R55, R56). -/
theorem State.bufferInv.memRead_ok {s : State} (h : s.bufferInv) {i n : Nat} (hn : i + n ≤ s.count.toNat) :
    ∃ ws, memRead s.edge s.capMax i n = .ok ws := by
  have := h.count_le_capMax
  exact memRead_total fun j hj => ⟨by omega, by rw [h.read_isSome]; simp; omega⟩

/-- The captured words, in order of acceptance (R120). -/
theorem State.bufferInv.memRead_all {s : State} (h : s.bufferInv) :
    memRead s.edge s.capMax 0 s.count.toNat = .ok (s.edge.map Prod.snd) := by
  obtain ⟨ws, hws⟩ := h.memRead_ok (i := 0) (n := s.count.toNat) (by omega)
  obtain ⟨hl, hr⟩ := Machine.memRead_ok hws
  have hlen : s.edge.length = s.count.toNat := by
    have := congrArg List.length h.2.2; simpa using this
  rw [hws]
  congr 1
  apply List.ext_getElem?
  intro j
  by_cases hj : j < s.count.toNat
  · rw [← (hr j hj).2]
    exact Memory.read_of_range' s.edge 0 s.count.toNat j (by rw [h.2.2, List.range_eq_range'])
  · rw [List.getElem?_eq_none (by omega), List.getElem?_eq_none (by simp; omega)]

/-- Slot `COUNT` is the one after the last listed, so an accepted push appends to the list (R54). -/
theorem State.bufferInv.write_next {s : State} (h : s.bufferInv) (w : Word) :
    s.edge.write s.count.toNat w = s.edge ++ [(s.count.toNat, w)] := by
  apply Memory.write_above
  intro x hx
  have : x.1 ∈ s.edge.map Prod.fst := List.mem_map_of_mem hx
  rw [h.2.2] at this
  exact List.mem_range.1 this

/-! ### Runs -/

/-- One step of a run, when the step answers a next state. -/
theorem core_run_next {k : Nat} {s t : State} (h : step s = .next t) :
    Host.Core.run Sys2Proof.core (k + 1) s = Host.Core.run Sys2Proof.core k t := by
  refine (Host.Core.run.eq_2 Sys2Proof.core s k).trans ?_
  rw [show Sys2Proof.core.step s = .next t from h]

/-- Runs compose: after `k` steps that all answer next states, `l` more are a run of `k + l`. -/
theorem core_run_append {k : Nat} (l : Nat) {s t : State} (h : Host.Core.run Sys2Proof.core k s = .next t) :
    Host.Core.run Sys2Proof.core (k + l) s = Host.Core.run Sys2Proof.core l t := by
  induction k generalizing s with
  | zero => cases h; simp
  | succ k ih =>
    rw [Nat.add_right_comm]
    cases hs : step s with
    | next s' => rw [core_run_next hs] at h ⊢; exact ih h
    | fault r =>
      have := (Host.Core.run.eq_2 Sys2Proof.core s k).symm.trans h
      rw [show Sys2Proof.core.step s = .fault r from hs] at this; cases this
    | refused r =>
      have := (Host.Core.run.eq_2 Sys2Proof.core s k).symm.trans h
      rw [show Sys2Proof.core.step s = .refused r from hs] at this; cases this

end Sys2Proof.Machine
end

