-- ==== Sys2Proof/Tests/Slice0.lean ====
section
/-! SUPPORT. Tests, their expected results taken from `95_test_vectors.md` (named at each), and for every
obligation with hypotheses a concrete state and operands that meet them. -/

namespace Sys2Proof.Tests

open Sys2Proof.Machine Sys2Proof.Claims

/-! ### Helpers -/

/-- A header from its fields (R71). -/
def H (opcode : BitVec 8) (zero : BitVec 16) (flags : BitVec 8) : Word := opcode ++ zero ++ flags

def hi (d : Duration) : Edge := ⟨true, d⟩
def lo (d : Duration) : Edge := ⟨false, d⟩

def P150 : Profile := ⟨250, 550, 700, 1000, 650, 950, 300, 600, 50000, 0⟩
def P150g : Profile := ⟨250, 550, 700, 1000, 650, 950, 300, 600, 50000, 100000000⟩
def P250 : Profile := ⟨150, 650, 600, 1100, 550, 1050, 200, 700, 50000, 0⟩
def NOM : Nominal := ⟨400, 400, 450, 50000⟩

/-- The sixteen edges of the byte 0xFF (`ENC(0xFF)`). -/
def encFF : List Edge := (List.replicate 8 [hi 800, lo 450]).flatten

/-- A finished capture of the given edges in a store of `cap` slots, `CAP_MAX = 64`. -/
def captureOf (p : Profile) (cap : Word) (es : List Edge) : State :=
  { State.reset with
    count := BitVec.ofNat 32 es.length
    capacity := cap
    finished := true
    cfg := ⟨cap, 100, 100000, 0, true⟩
    prof := p
    edge := (List.range es.length).zip (es.map pack) }

/-- The end of P1 step 11: three edges in a buffer of three slots. -/
def full3 : State := captureOf .zero 3 [hi 800, lo 450, hi 400]

/-- A configured, empty buffer of four slots. -/
def empty4 : State := { State.reset with capacity := 4 }

/-- `s` with one command packet presented. -/
def presenting (s : State) (h : Word) (ws : List Word) : State := { s with inbox := [.command ⟨h, ws⟩] }

/-- The response of one step, when it gives one. -/
def responseOf (s : State) : Option Response :=
  match step s with
  | .next t => t.responses.getLast?
  | _ => none

/-- What one step leaves, seen through `f`. -/
def after {α : Type} (s : State) (f : State → α) : Option α :=
  match step s with
  | .next t => some (f t)
  | _ => none

/-! ### Decoding: every operation by a word written out from R71 to R73 and R76 (V-E1 to V-E13) -/

theorem test_decode_buildProfile :
    decode ⟨H 0b00010000 0 0b00000001, [400, 400, 450, 50000, 7]⟩ =
      .ok (.buildProfile true 400 400 450 50000 7) := by decide

theorem test_decode_setGapTolerance :
    decode ⟨H 0b00010001 0 0, [0x05F5E100]⟩ = .ok (.setGapTolerance 100000000) := by decide

theorem test_decode_getProfile : decode ⟨H 0b00010010 0 0, []⟩ = .ok .getProfile := by decide

theorem test_decode_configure_ovr :
    decode ⟨H 0b00000001 0 0b00000001, [1, 2, 3, 4, 5]⟩ = .ok (.configure true false 1 2 3 4 5) := by decide

theorem test_decode_configure_spl :
    decode ⟨H 0b00000001 0 0b00000010, [1, 2, 3, 4, 5]⟩ = .ok (.configure false true 1 2 3 4 5) := by decide

theorem test_decode_pushEdge_high :
    decode ⟨H 0b00000010 0 0b00000001, [0x320]⟩ = .ok (.pushEdge true 800) := by decide

theorem test_decode_pushEdge_low :
    decode ⟨H 0b00000010 0 0b00000000, [0x1C2]⟩ = .ok (.pushEdge false 450) := by decide

theorem test_decode_finish : decode ⟨H 0b00000011 0 0, []⟩ = .ok .finish := by decide
theorem test_decode_bufReset : decode ⟨H 0b00000100 0 0, []⟩ = .ok .bufReset := by decide
theorem test_decode_edgeCount : decode ⟨H 0b00000101 0 0, []⟩ = .ok .edgeCount := by decide
theorem test_decode_isFinished : decode ⟨H 0b00000110 0 0, []⟩ = .ok .isFinished := by decide
theorem test_decode_bufferCapacity : decode ⟨H 0b00000111 0 0, []⟩ = .ok .bufferCapacity := by decide

theorem test_decode_getRawEdges :
    decode ⟨H 0b00001000 0 0, [8, 1]⟩ = .ok (.getRawEdges 8 1) := by decide

theorem test_decode_getConfig : decode ⟨H 0b00001001 0 0, []⟩ = .ok .getConfig := by decide

theorem test_decode_decode :
    decode ⟨H 0b00100000 0 0b00000001, [4]⟩ = .ok (.decode true 4) := by decide

/-- Table words: header in bits 31..0, operand words above it, missing ones zero (log entry 9). -/
theorem test_tableWord :
    decodeTableWord 64 0x0000032002000001 = some (.pushEdge true 800) ∧
    decodeTableWord 32 0x02000001 = some (.pushEdge true 0) ∧
    decodeTableWord 32 0x20000002 = none := by decide

/-! ### Ill-formed commands, one for each check of R77 (V-E3, V-E5, V-E8, V-E10, V-E14 to V-E17) -/

theorem smoke_unassigned_opcode :
    Packet.isLegal ⟨0x7F000000, []⟩ = false ∧ decode ⟨0x7F000000, []⟩ = .error .unassignedOpcode ∧
    Packet.isLegal ⟨0, []⟩ = false ∧ Packet.isLegal ⟨0x0A000000, []⟩ = false ∧
    Packet.isLegal ⟨0x13000000, []⟩ = false ∧ Packet.isLegal ⟨0x21000000, [4]⟩ = false := by decide

theorem smoke_reserved_zero_field :
    Packet.isLegal ⟨0x02000101, [800]⟩ = false ∧
    decode ⟨0x02000101, [800]⟩ = .error .reservedZeroField := by decide

theorem smoke_reserved_flag :
    Packet.isLegal ⟨0x20000002, [4]⟩ = false ∧ decode ⟨0x20000002, [4]⟩ = .error .reservedFlag ∧
    Packet.isLegal ⟨0x01000004, [1, 2, 3, 4, 5]⟩ = false ∧ Packet.isLegal ⟨0x11000001, [4]⟩ = false ∧
    Packet.isLegal ⟨0x10000002, [1, 2, 3, 4, 5]⟩ = false := by decide

theorem smoke_wrong_length :
    Packet.isLegal ⟨0x05000000, [0]⟩ = false ∧ decode ⟨0x05000000, [0]⟩ = .error .wrongLength ∧
    Packet.isLegal ⟨0x02000001, []⟩ = false ∧ decode ⟨0x02000001, []⟩ = .error .wrongLength := by decide

/-! ### Listings (R82) and packing (R51) -/

theorem test_listing :
    (Instr.pushEdge true 800).listing = "PUSH_EDGE hi=1, duration_ns=800" ∧
    (Instr.decode true 4).listing = "DECODE spl=1, out_len=4" ∧
    (Instr.configure false true 3 100 100000 0 0).listing =
      "CONFIGURE buffer_capacity=3, signal_range_min_ns=100, signal_range_max_ns=100000, skip_signals=0, spl=1, ovr=0, override_capacity=0" := by
  decide +kernel

theorem test_pack :
    pack (hi 800) = 0x80000320 ∧ pack (lo 450) = 0x000001C2 ∧ pack (hi 2147483647) = 0xFFFFFFFF ∧
    unpack 0x83938700 = hi 60000000 ∧ unpack 0x0001E240 = lo 123456 := by decide

/-! ### One step of each operation -/

/-- S1. -/
theorem test_buildProfile :
    responseOf (presenting State.reset 0x10000000 [400, 400, 450, 50000, 150]) =
      some ⟨0, [250, 550, 700, 1000, 650, 950, 300, 600, 50000, 0], .none⟩ := by decide

/-- V-B11. -/
theorem test_buildProfile_saturates :
    after (presenting State.reset 0x10000000 [4000000000, 300000000, 5, 280, 150]) State.prof =
      some ⟨3999999850, 4000000150, 299999855, 300000155, 4294967145, 4294967295, 0, 155, 280, 0⟩ := by
  decide

/-- V-B15. -/
theorem test_setGapTolerance :
    after (presenting (captureOf P150 4 []) 0x11000000 [0x05F5E100]) State.prof = some P150g := by decide

/-- P3 step 31's order of fields, on `P150g`. -/
theorem test_getProfile :
    responseOf (presenting (captureOf P150g 4 []) 0x12000000 []) =
      some ⟨0, [250, 550, 700, 1000, 650, 950, 300, 600, 50000, 100000000], .none⟩ := by decide

/-- V-C2 steps 1 to 3. -/
theorem test_configure_clamps :
    after (presenting full3 0x01000000 [100, 0, 0, 0, 0])
      (fun t => (t.capacity, t.count, t.finished, t.cfg.bufferCapacity)) = some (64, 0, false, 100) := by
  decide

/-- V-C2 steps 4 to 6. -/
theorem test_configure_override :
    after (presenting full3 0x01000003 [10, 1, 2, 3, 0]) (fun t => (t.capacity, t.cfg)) =
      some (0, ⟨10, 1, 2, 3, true⟩) := by decide

/-- V-C4e: saturation, and the polarity from the flag only. -/
theorem test_pushEdge_saturates :
    after (presenting empty4 0x02000000 [0xFFFFFFFF]) (fun t => (t.edge, t.count, t.finished)) =
      some ([(0, 0x7FFFFFFF)], 1, false) := by decide

/-- P1 step 7. -/
theorem test_pushEdge_rejected :
    after (presenting { full3 with finished := false } 0x02000000 [850])
      (fun t => (t.edge, t.count, t.finished, t.responses)) =
      some (full3.edge, 3, true, [⟨0, [0], .none⟩]) := by decide

/-- V-C3 steps 2 to 4. -/
theorem test_finish :
    after (presenting empty4 0x03000000 []) (fun t => (t.finished, t.count, t.responses)) =
      some (true, 0, [⟨0, [], .none⟩]) := by decide

/-- P1 steps 14 to 18. -/
theorem test_bufReset :
    after (presenting full3 0x04000000 []) (fun t => (t.count, t.finished, t.capacity, t.cfg)) =
      some (0, false, 3, ⟨3, 100, 100000, 0, true⟩) := by decide

/-- P1 step 9. -/
theorem test_edgeCount : responseOf (presenting full3 0x05000000 []) = some ⟨0, [3], .none⟩ := by decide

/-- P1 step 8. -/
theorem test_isFinished : responseOf (presenting full3 0x06000000 []) = some ⟨0, [1], .none⟩ := by decide

/-- P1 step 10. -/
theorem test_bufferCapacity : responseOf (presenting full3 0x07000000 []) = some ⟨0, [3], .none⟩ := by decide

/-- P1 step 12. -/
theorem test_getRawEdges :
    responseOf (presenting full3 0x08000000 [8, 1]) = some ⟨0, [2], .edges [0x000001C2, 0x80000190]⟩ := by
  decide

/-- V-C3 step 14's form, on P1's buffer. -/
theorem test_getRawEdges_past_end :
    responseOf (presenting full3 0x08000000 [8, 0xFFFFFFFF]) = some ⟨0, [0], .edges []⟩ := by decide

/-- P1 step 13. -/
theorem test_getConfig :
    responseOf (presenting full3 0x09000000 []) = some ⟨0, [3, 100, 100000, 0, 1], .none⟩ := by decide

/-- V-D22: a byte straddles a gap. -/
theorem test_decode_gap_inside_byte :
    responseOf (presenting (captureOf P150g 64
      [hi 800, lo 450, hi 800, lo 450, hi 400, lo 850, hi 400, lo 850, hi 800, lo 60000000,
       hi 400, lo 850, hi 400, lo 850, hi 800, lo 450, hi 800, lo 450]) 0x20000001 [1]) =
      some ⟨0, [1], .bytes [0xC3]⟩ := by decide +kernel

/-- V-D1's edges with room for no byte (P2 step 24's form). -/
theorem test_decode_overflow :
    responseOf (presenting (captureOf P150 64 encFF) 0x20000001 [0]) = some ⟨2, [], .none⟩ := by
  decide +kernel

/-- P4 step 6: the reserved strict-mode flag. -/
theorem test_illegal_command :
    responseOf (presenting full3 0x20000003 [4]) = some ⟨15, [], .none⟩ := by decide

/-- R31. -/
theorem test_hardwareReset :
    step { full3 with inbox := [.hardwareReset] } = .next { State.reset with inbox := [] } := by rfl

/-- The presented word runs at the very next step, from reset (V-C1 step 3, P4 step 2). -/
theorem test_withFetchWord :
    responseOf (State.reset.withFetchWord 32 0x07000000) = some ⟨0, [0], .none⟩ ∧
    responseOf (State.reset.withFetchWord 64 0x0000032002000001) = some ⟨0, [0], .none⟩ := by decide

/-! ### The comparator and the decoder -/

/-- V-W1. -/
theorem test_window_bounds :
    classify P150 250 700 = .bit0 ∧ classify P150 249 700 = .stop ∧ classify P150 250 699 = .stop ∧
    classify P150 550 1000 = .bit0 ∧ classify P150 551 1000 = .stop ∧ classify P150 550 1001 = .stop ∧
    classify P150 650 300 = .bit1 ∧ classify P150 951 600 = .stop ∧ classify P150 400 450 = .stop := by
  decide

/-- V-W2. -/
theorem test_gap_bounds :
    classify P150g 800 50000000 = .stop ∧ classify P150g 800 50000001 = .gap ∧
    classify P150g 800 99999999 = .gap ∧ classify P150g 800 100000000 = .stop ∧
    classify P150g 2147483647 60000000 = .gap := by decide

/-- V-W3. -/
theorem test_priority :
    classify P250 600 650 = .bit0 ∧
    classify ⟨250, 550, 700, 1000, 650, 950, 300, 600, 0, 2000⟩ 400 850 = .bit0 ∧
    classify ⟨250, 550, 700, 1000, 650, 950, 300, 600, 0, 2000⟩ 5000 850 = .gap := by decide

/-- V-W4. -/
theorem test_product_does_not_wrap :
    classify ⟨250, 550, 700, 1000, 650, 950, 300, 600, 4294968, 2147483648⟩ 800 1000000 = .stop ∧
    classify ⟨250, 550, 700, 1000, 650, 950, 300, 600, 2147483, 4294967295⟩ 800 2147483647 = .gap := by
  decide

/-- V-D6, V-D16, V-D12: no edge to align to, one edge, no edge at all. -/
theorem test_decode_alignment :
    decodeEdges [lo 1000, lo 2000, lo 3000] P150 true 4 = .ok [] ∧ decodeEdges [hi 800] P150 true 1 = .ok [] ∧
    decodeEdges [] P150 true 4 = .err .invalidArgument := by decide

/-- V-D8's odd alignment with V-D1's byte, and the same by the cursor of R163. -/
theorem test_decode_idle_prefix :
    decodeEdges (lo 123456 :: encFF) P150 true 1 = .ok [0xFF] ∧
    decodeByCursor (lo 123456 :: encFF) P150 true 1 = .ok [0xFF] := by decide +kernel

/-- V-D5's bit order: S5. -/
theorem test_decode_msb_first :
    decodeEdges (bytesEdges NOM [0xAA]) P150 true 1 = .ok [0xAA] := by decide +kernel

/-! ### Witnesses: each obligation's hypotheses can be met -/

theorem witness_IllegalCommands :
    (presenting full3 0x7F000000 []).inbox = .command ⟨0x7F000000, []⟩ :: [] ∧
    IllegalCommand ⟨0x7F000000, []⟩ ∧ IllegalCommand ⟨0x02000100, [1]⟩ ∧
    IllegalCommand ⟨0x20000002, [1]⟩ ∧ IllegalCommand ⟨0x01000004, [1, 2, 3, 4, 5]⟩ ∧
    IllegalCommand ⟨0x12000001, []⟩ ∧ IllegalCommand ⟨0x08000000, [1]⟩ ∧
    ¬ IllegalCommand ⟨0x20000001, [1]⟩ ∧ ¬ IllegalCommand ⟨0x01000003, [1, 2, 3, 4, 5]⟩ := by
  refine ⟨rfl, ?_, ?_, ?_, ?_, ?_, ?_, ?_, ?_⟩ <;> (unfold IllegalCommand; dsimp only; decide)

theorem witness_OperandWords :
    decode ⟨0x02000001, [800]⟩ = .ok (.pushEdge true 800) ∧
    [(0xFFFFFFFF : Word)].length = [(800 : Word)].length := by decide

/-- For SetGapToleranceWritesOneField's last clause. -/
theorem witness_SetGapTolerance : (0 : Word) = 0 ∧ P150g.gapToleranceNs ≠ 0 := by decide

theorem witness_StepRunsTheDecodedCommand :
    (presenting full3 0x08000000 [8, 1]).inbox = .command ⟨0x08000000, [8, 1]⟩ :: [] ∧
    decode ⟨0x08000000, [8, 1]⟩ = .ok (.getRawEdges 8 1) := by decide

theorem witness_StepWithNothingPresented : full3.inbox = [] := by decide

/-- For HardwareResetClearsTheBlock, HardwareResetKeepsStreamsAndParameter and the last clause of
ObserversAnswerTheRegisters, with a command waiting behind the reset as well. -/
theorem witness_HardwareReset :
    ({ full3 with inbox := [.hardwareReset, .command ⟨0x12000000, []⟩] } : State).inbox =
      .hardwareReset :: [.command ⟨0x12000000, []⟩] ∧
    ({ full3 with inbox := [.hardwareReset] } : State).inbox = .hardwareReset :: [] ∧ full3.count ≠ 0 := by
  decide

theorem witness_Overlapping :
    ({ full3 with inbox := [.overlap ⟨0x03000000, []⟩ ⟨0x04000000, []⟩] } : State).inbox =
      .overlap ⟨0x03000000, []⟩ ⟨0x04000000, []⟩ :: [] := by decide

theorem witness_BuiltWindows :
    (150 : Word) ≤ 250 ∧ matchesBit0 (buildProfile NOM 150) 250 700 = true ∧
    matchesBit1 (buildProfile NOM 150) 950 600 = true := by decide

theorem witness_ConfigureIsIdempotent : ∃ t, exec (.configure true true 1 2 3 4 5) full3 = .next t := ⟨_, rfl⟩

/-- The first slot, the last slot, and no slot left. -/
theorem witness_PushAppends :
    empty4.count < empty4.capacity ∧ empty4.capacity ≤ empty4.capMax ∧
    (captureOf P150 64 (List.replicate 63 (hi 1))).count < (captureOf P150 64 (List.replicate 63 (hi 1))).capacity ∧
    (captureOf P150 64 (List.replicate 63 (hi 1))).capacity ≤ (captureOf P150 64 []).capMax ∧
    ¬ full3.count < full3.capacity := by decide

theorem witness_PushIntoFullBuffer : full3.count = full3.capacity ∧ State.reset.count = State.reset.capacity := by
  decide

theorem witness_PushAfterFinish :
    empty4.count < empty4.capacity ∧ empty4.capacity ≤ empty4.capMax ∧ ∃ t, exec .finish empty4 = .next t :=
  ⟨by decide, by decide, _, rfl⟩

/-- With offsets below, at and above `COUNT`. -/
theorem witness_RawEdges :
    full3.bufferInv ∧ (2 : Word) < full3.count ∧ ¬ (3 : Word) < full3.count ∧ ¬ (4 : Word) < full3.count := by
  decide

theorem witness_CapacityZero : State.reset.bufferInv ∧ State.reset.capacity = 0 := by decide

theorem witness_OperationsWrite :
    (∃ t, exec (.pushEdge true 5) empty4 = .next t) ∧ (∃ t, exec (.pushEdge true 5) full3 = .next t) ∧
    ∃ t, exec (.decode true 5) full3 = .next t := ⟨⟨_, rfl⟩, ⟨_, rfl⟩, ⟨_, rfl⟩⟩

theorem witness_ObserversChangeNothing :
    (Instr.getRawEdges 8 1).opcode ∈ [Opcode.getProfile, .edgeCount, .isFinished, .bufferCapacity,
      .getRawEdges, .getConfig, .decode] ∧ ∃ t, exec (.getRawEdges 8 1) full3 = .next t :=
  ⟨by decide, _, rfl⟩

/-- A stored edge below an accepted push. -/
theorem witness_StoredEdges :
    (captureOf P150 4 [hi 1]).bufferInv ∧
    (∃ t, step (presenting (captureOf P150 4 [hi 1]) 0x02000001 [800]) = .next t) ∧
    ¬ PresentsClear (presenting (captureOf P150 4 [hi 1]) 0x02000001 [800]) ∧
    0 < (captureOf P150 4 [hi 1]).count.toNat := by
  refine ⟨by decide, ⟨_, rfl⟩, ?_, by decide⟩
  rintro (⟨_, h⟩ | ⟨i, ⟨p, rest, h, hd⟩, ho⟩)
  · cases h
  · cases h
    rw [show decode ⟨0x02000001, [800]⟩ = .ok (.pushEdge true 800) by decide] at hd
    cases hd
    revert ho; decide

theorem witness_FinishedFollows : ∃ t, step (presenting full3 0x02000001 [800]) = .next t := ⟨_, rfl⟩

theorem witness_CountGrows :
    empty4.bufferInv ∧ (∃ t, step (presenting empty4 0x02000001 [800]) = .next t) ∧
    full3.bufferInv ∧ (∃ t, step (presenting full3 0x04000000 []) = .next t) :=
  ⟨by decide, ⟨_, rfl⟩, by decide, ⟨_, rfl⟩⟩

theorem witness_StoredPolicy :
    (Instr.pushEdge true 5).opcode ≠ .getConfig ∧ (∃ t, exec (.pushEdge true 5) empty4 = .next t) ∧
    (Instr.configure false false 1 2 3 4 5).opcode ≠ .getConfig ∧
    ∃ t, exec (.configure false false 1 2 3 4 5) empty4 = .next t :=
  ⟨by decide, ⟨_, rfl⟩, by decide, ⟨_, rfl⟩⟩

theorem witness_FinishedIsRead :
    (Instr.pushEdge true 5).opcode ≠ .isFinished ∧ ∃ t, exec (.pushEdge true 5) empty4 = .next t :=
  ⟨by decide, _, rfl⟩

theorem witness_ResponsesAreNeverReadBack : ∃ t, step (presenting full3 0x12000000 []) = .next t := ⟨_, rfl⟩

theorem witness_EmptyInput :
    empty4.bufferInv ∧ empty4.count = 0 ∧ full3.bufferInv ∧ full3.count ≠ 0 ∧
    classify P150 (hi 5000).durationNs (lo 5000).durationNs = .stop := by decide

theorem witness_Alignment :
    (∀ e ∈ [lo 5, lo 7], e.isHigh ≠ true) ∧ [lo 5, lo 7] ≠ [] ∧ (hi 800).isHigh = true ∧
    (∀ e ∈ [hi 9999], e.isHigh ≠ false) ∧ (lo 800).isHigh = false := by decide

theorem witness_PairRoles :
    [hi 800, lo 450].map Edge.durationNs = [lo 800, hi 450].map Edge.durationNs := by decide

theorem witness_EightBits :
    classify P150 (hi 400).durationNs (lo 850).durationNs = .bit0 ∧
    classify P150 (hi 800).durationNs (lo 450).durationNs = .bit1 ∧
    8 * 0 + 7 < 8 * ((List.replicate 8 true).foldl Accumulator.shiftIn .empty).bytes.length := by decide

/-- With nothing before the stopping pair, and with one byte before it and room for exactly one. -/
theorem witness_Stop :
    ([] : List Edge).length % 2 = 0 ∧ (hi 5000).isHigh = true ∧
    classify P150 (hi 5000).durationNs (lo 5000).durationNs = .stop ∧
    encFF.length % 2 = 0 ∧ (∀ e, (encFF ++ [hi 5000]).head? = some e → e.isHigh = true) ∧
    (decodedBytes encFF P150 true).length ≤ (1 : Word).toNat := by
  refine ⟨by decide, by decide, by decide, by decide, ?_, by decide +kernel⟩
  intro e h; cases h; rfl

/-- Just above the reset threshold, just below the gap tolerance, and with the gap rule off. -/
theorem witness_Gap :
    encFF.length % 2 = 0 ∧
    matchesBit0 P150g (hi 800).durationNs (lo 50000001).durationNs = false ∧
    matchesBit1 P150g (hi 800).durationNs (lo 50000001).durationNs = false ∧
    P150g.resetMinUs.toNat * 1000 < (lo 50000001).durationNs.toNat ∧
    (lo 50000001).durationNs.toNat < P150g.gapToleranceNs.toNat ∧
    matchesBit0 P150g (hi 800).durationNs (lo 99999999).durationNs = false ∧
    matchesBit1 P150g (hi 800).durationNs (lo 99999999).durationNs = false ∧
    (lo 99999999).durationNs.toNat < P150g.gapToleranceNs.toNat ∧
    matchesBit0 P150 (hi 800).durationNs (lo 60000000).durationNs = false ∧
    matchesBit1 P150 (hi 800).durationNs (lo 60000000).durationNs = false ∧ P150.gapToleranceNs = 0 := by
  decide

/-- A whole byte, one bit that is dropped, and edges behind an idle one (aligned index 1). -/
theorem witness_TrailingEdge :
    encFF.length % 2 = 0 ∧ alignEdges true encFF ≠ [] ∧ (alignEdges true encFF).length % 2 = 0 ∧
    alignEdges true [lo 5, hi 800, lo 450] ≠ [] ∧ (alignEdges true [lo 5, hi 800, lo 450]).length % 2 = 0 := by
  decide

/-- One byte captured: one short, and exact. -/
theorem witness_CapacityCheck :
    (captureOf P150 64 encFF).bufferInv ∧ (captureOf P150 64 encFF).count ≠ 0 ∧
    (0 : Word).toNat < (decodedBytes (captured (captureOf P150 64 encFF)) P150 true).length ∧
    (decodedBytes (captured (captureOf P150 64 encFF)) P150 true).length ≤ (1 : Word).toNat := by
  decide +kernel

theorem witness_DecodeIsMonotone :
    decodeEdges encFF P150 true 1 = .ok [0xFF] ∧ [(0xFF : Byte)].length ≤ (1 : Word).toNat ∧
    (0 : Word).toNat < [(0xFF : Byte)].length := by decide +kernel

theorem witness_RepeatedDecode : ∃ t, exec (.decode true 1) full3 = .next t := ⟨_, rfl⟩

/-- The largest tolerance below `t2` (V-B8). -/
theorem witness_NominalPulses :
    (399 : Word) < NOM.t2Ns ∧ NOM.t1Ns.toNat + NOM.t2Ns.toNat < 2 ^ 31 ∧
    NOM.t2Ns.toNat + NOM.t3Ns.toNat < 2 ^ 31 ∧ [(0xA5 : Byte)] ≠ [] ∧
    [(0xA5 : Byte)].length ≤ (1 : Word).toNat := by decide

/-- The byte 0xA5 into a buffer of exactly sixteen slots. -/
theorem witness_PushedBytes :
    let s : State := { State.reset with
      capacity := 16
      prof := buildProfile NOM 399
      inbox := ([(0xA5 : Byte)].flatMap (pushByte NOM) ++ [Instr.decode true 1]).map
        fun i => Event.command (encode i) }
    s.bufferInv ∧ s.count = 0 ∧ 16 * [(0xA5 : Byte)].length ≤ s.capacity.toNat ∧
    s.prof = buildProfile NOM 399 ∧
    s.inbox = ([(0xA5 : Byte)].flatMap (pushByte NOM) ++ [Instr.decode true 1]).map
      (fun i => Event.command (encode i)) :=
  ⟨by decide, rfl, by decide, rfl, rfl⟩

theorem witness_HighErrorRate :
    (∃ t r, step (presenting State.reset 0x20000001 [4]) = .next t ∧
      r ∈ newResponses (presenting State.reset 0x20000001 [4]) t ∧ r.status = 3) ∧
    (0x20000002 : Word).toNat / 2 ^ 24 = 0x20 ∧ (0x20000002 : Word).getLsbD 1 = true :=
  ⟨⟨_, ⟨3, [], .none⟩, rfl, by decide, rfl⟩, by decide, by decide⟩

theorem witness_Errors :
    ∃ t r, step (presenting full3 0x7F000000 []) = .next t ∧
      r ∈ newResponses (presenting full3 0x7F000000 []) t ∧ r.status ≠ 0 :=
  ⟨_, ⟨15, [], .none⟩, rfl, by decide, by decide⟩

theorem witness_ResponsesHaveTheirShape : ∃ t, exec (.getRawEdges 8 1) full3 = .next t := ⟨_, rfl⟩

theorem witness_Invariant :
    (presenting (captureOf P150 4 [hi 1]) 0x02000001 [800]).Inv ∧
    ∃ t, step (presenting (captureOf P150 4 [hi 1]) 0x02000001 [800]) = .next t :=
  ⟨by decide, _, rfl⟩

theorem witness_EveryCommand :
    (presenting full3 0x20000001 [4]).Inv ∧
    (presenting full3 0x20000001 [4]).inbox = .command ⟨0x20000001, [4]⟩ :: [] := by decide

end Sys2Proof.Tests
end

section
namespace Sys2Proof.Proofs
open Sys2Proof.Machine

/-- Settles O32: the layout from the value of `pack` and of both fields of `unpack`, then the two inverse
laws (R51). -/
theorem edgeWordLayout : Obligations.EdgeWordLayout := by
  have hunpack (w : Word) : (unpack w).isHigh = decide (2 ^ 31 ≤ w.toNat) ∧
      (unpack w).durationNs.toNat = w.toNat % 2 ^ 31 :=
    ⟨unpack_isHigh w, unpack_durationNs_toNat w⟩
  exact ⟨pack_toNat, hunpack, unpack_pack, pack_unpack⟩

end Sys2Proof.Proofs
end

section
/-! R77 read three ways: as one of the thirteen rows, as the decoder's checks, and as the four conditions on
the header's numbers. Each says that the packet fits some opcode. -/

namespace Sys2Proof.Proofs
open Sys2Proof.Machine Sys2Proof.Claims

/-- The packet is one of the commands of `o`: each field of its header and its length are as R71 to R73 and
R76 say for `o`. -/
def FitsOpcode (p : Packet) (o : Opcode) : Prop :=
  headerOpcode p.header = o.code ∧ headerZero p.header = 0 ∧
    headerFlags p.header &&& ~~~o.flagMask = 0 ∧ p.operands.length = o.operandCount

/-! ### The match-and-mask rows -/

/-- The row of the opcode table that the decoder's tables describe: a care mask on every bit but the defined
flags. -/
def rowOf (o : Opcode) : OpcodeRow :=
  ⟨o.mnemonic, header o 0, 0xFFFFFF#24 ++ ~~~o.flagMask, o.operandCount⟩

theorem opcodeRows_eq_map_rowOf : opcodeRows = Opcode.all.map rowOf := by decide

theorem mem_opcodeAll (o : Opcode) : o ∈ Opcode.all := by cases o <;> decide

theorem word_eq_iff_headerFields {a b : Word} :
    a = b ↔ headerOpcode a = headerOpcode b ∧ headerZero a = headerZero b ∧ headerFlags a = headerFlags b := by
  constructor
  · rintro rfl
    exact ⟨rfl, rfl, rfl⟩
  · rintro ⟨ho, hz, hf⟩
    have ho := congrArg BitVec.toNat ho
    have hz := congrArg BitVec.toNat hz
    have hf := congrArg BitVec.toNat hf
    rw [headerOpcode_toNat, headerOpcode_toNat] at ho
    rw [headerZero_toNat, headerZero_toNat] at hz
    rw [headerFlags_toNat, headerFlags_toNat] at hf
    bv_omega

theorem headerOpcode_and (a b : Word) : headerOpcode (a &&& b) = headerOpcode a &&& headerOpcode b :=
  BitVec.extractLsb'_and

theorem headerZero_and (a b : Word) : headerZero (a &&& b) = headerZero a &&& headerZero b :=
  BitVec.extractLsb'_and

theorem headerFlags_and (a b : Word) : headerFlags (a &&& b) = headerFlags a &&& headerFlags b :=
  BitVec.extractLsb'_and

theorem rowOf_mask_fields (o : Opcode) :
    headerOpcode (rowOf o).mask = BitVec.allOnes 8 ∧ headerZero (rowOf o).mask = BitVec.allOnes 16 ∧
      headerFlags (rowOf o).mask = ~~~o.flagMask := by
  cases o <;> decide

/-- A row admits a header exactly when the header's fields are the row's, its reserved flags 0. -/
theorem rowOf_admits_iff {o : Opcode} {h : Word} :
    (rowOf o).admits h = true ↔
      headerOpcode h = o.code ∧ headerZero h = 0 ∧ headerFlags h &&& ~~~o.flagMask = 0 := by
  obtain ⟨hmo, hmz, hmf⟩ := rowOf_mask_fields o
  have hmatch : (rowOf o).matchWord = header o 0 := rfl
  rw [OpcodeRow.admits, beq_iff_eq, word_eq_iff_headerFields, headerOpcode_and, headerZero_and,
    headerFlags_and, hmo, hmz, hmf, hmatch, headerOpcode_header, headerZero_header, headerFlags_header,
    BitVec.and_allOnes, BitVec.and_allOnes]

theorem isLegal_iff_fitsOpcode {p : Packet} : p.isLegal = true ↔ ∃ o, FitsOpcode p o := by
  have hcount (o : Opcode) : (rowOf o).operandCount = o.operandCount := rfl
  simp [Packet.isLegal, opcodeRows_eq_map_rowOf, mem_opcodeAll, rowOf_admits_iff, hcount, FitsOpcode,
    and_assoc]

/-! ### The decoder -/

theorem decode_isOk_iff_fitsOpcode {p : Packet} : (∃ i, decode p = .ok i) ↔ ∃ o, FitsOpcode p o := by
  constructor
  · rintro ⟨i, h⟩
    obtain ⟨o, ho, hz, hf, hi⟩ := decode_ok h
    obtain ⟨rfl, hw⟩ := assemble_some hi
    exact ⟨i.opcode, (Opcode.code_of_ofByte? ho).symm, hz, hf, hw ▸ i.operands_length⟩
  · rintro ⟨o, ho, hz, hf, hl⟩
    have hsome : (assemble o (headerFlags p.header) p.operands).isSome := by
      rw [assemble_isSome, hl, beq_self_eq_true]
    obtain ⟨i, hi⟩ := Option.isSome_iff_exists.1 hsome
    exact ⟨i, decode_of_fields (ho ▸ o.ofByte?_code) hz hf hi⟩

/-! ### The four conditions of R77 -/

/-- A defined flag field is the low bits of the byte, so the reserved bits are 0 exactly below its bound. -/
theorem and_not_lowMask_eq_zero_iff {f m : Byte} {k : Nat} (hm : m.toNat = 2 ^ k - 1) :
    f &&& ~~~m = 0 ↔ f.toNat ≤ m.toNat := by
  have hpos := Nat.two_pow_pos k
  calc f &&& ~~~m = 0 ↔ f &&& m = f := by
        simp only [BitVec.eq_of_getLsbD_eq_iff, BitVec.getLsbD_and, BitVec.getLsbD_not]
        refine forall₂_congr fun i hi => ?_
        cases f.getLsbD i <;> simp [hi]
    _ ↔ f.toNat % 2 ^ k = f.toNat := by
        rw [← BitVec.toNat_inj, BitVec.toNat_and, hm, Nat.and_two_pow_sub_one_eq_mod]
    _ ↔ f.toNat ≤ m.toNat := by
        rw [Nat.mod_eq_iff_lt hpos.ne']; omega

theorem flagMask_eq_lowMask (o : Opcode) : ∃ k, o.flagMask.toNat = 2 ^ k - 1 := by
  cases o
  case configure => exact ⟨2, rfl⟩
  case buildProfile | pushEdge | decode => exact ⟨1, rfl⟩
  all_goals exact ⟨0, rfl⟩

theorem mem_opcodeValues_iff {n : Nat} :
    n ∈ [0x10, 0x11, 0x12, 0x01, 0x02, 0x03, 0x04, 0x05, 0x06, 0x07, 0x08, 0x09, 0x20] ↔
      ∃ o : Opcode, n = o.code.toNat := by
  have hvalues : [0x10, 0x11, 0x12, 0x01, 0x02, 0x03, 0x04, 0x05, 0x06, 0x07, 0x08, 0x09, 0x20] =
      Opcode.all.map fun o => o.code.toNat := rfl
  simp [hvalues, mem_opcodeAll, eq_comm]

/-- The clauses of R77 for a header whose opcode is `o`'s. -/
theorem illegalCommand_iff_of_opcode {p : Packet} {o : Opcode} (ho : p.header.toNat / 2 ^ 24 = o.code.toNat) :
    IllegalCommand p ↔ p.header.toNat / 2 ^ 8 % 2 ^ 16 ≠ 0 ∨
      o.flagMask.toNat < p.header.toNat % 2 ^ 8 ∨ p.operands.length ≠ o.operandCount := by
  simp only [IllegalCommand, ho]
  cases o <;> simp [Opcode.code, Opcode.flagMask, Opcode.operandCount]

theorem headerOpcode_eq_iff {h : Word} {c : Byte} : headerOpcode h = c ↔ h.toNat / 2 ^ 24 = c.toNat := by
  rw [← BitVec.toNat_inj, headerOpcode_toNat]
  have := h.isLt
  omega

theorem headerZero_eq_zero_iff {h : Word} : headerZero h = 0 ↔ h.toNat / 2 ^ 8 % 2 ^ 16 = 0 := by
  rw [← BitVec.toNat_inj, headerZero_toNat]
  rfl

theorem not_illegalCommand_iff_fitsOpcode {p : Packet} : ¬ IllegalCommand p ↔ ∃ o, FitsOpcode p o := by
  have hfits {o : Opcode} (ho : p.header.toNat / 2 ^ 24 = o.code.toNat) :
      ¬ IllegalCommand p ↔ FitsOpcode p o := by
    obtain ⟨k, hk⟩ := flagMask_eq_lowMask o
    rw [illegalCommand_iff_of_opcode ho, FitsOpcode, headerOpcode_eq_iff, headerZero_eq_zero_iff,
      and_not_lowMask_eq_zero_iff hk, headerFlags_toNat]
    simp only [not_or, not_not, not_lt, ho, true_and]
  constructor
  · intro h
    have hmem := not_not.1 fun hn => h (.inl hn)
    obtain ⟨o, ho⟩ := mem_opcodeValues_iff.1 hmem
    exact ⟨o, (hfits ho).1 h⟩
  · rintro ⟨o, h⟩
    exact (hfits (headerOpcode_eq_iff.1 h.1)).2 h

/-- Settles O3: the four conditions, the rows and the decoder all say whether the packet fits an opcode, so
an illegal packet is one the decoder rejects, and the step answers it with status 15 alone (R77, R185). -/
theorem illegalCommandsAreAnsweredAndChangeNothing :
    Obligations.IllegalCommandsAreAnsweredAndChangeNothing := by
  intro s p rest hs
  have hrows : IllegalCommand p ↔ p.isLegal = false := by
    rw [← Bool.not_eq_true, isLegal_iff_fitsOpcode, ← not_illegalCommand_iff_fitsOpcode, not_not]
  have hdecodes : ¬ IllegalCommand p ↔ ∃ i, decode p = .ok i :=
    not_illegalCommand_iff_fitsOpcode.trans decode_isOk_iff_fitsOpcode.symm
  refine ⟨hrows, fun hill => ?_, hdecodes.1⟩
  cases hd : decode p with
  | ok i => exact absurd hill (hdecodes.2 ⟨i, hd⟩)
  | error e => exact step_illegal hs hd

end Sys2Proof.Proofs
end

section
/-! The profile builder (R100 to R105) and the observers (R130 to R132, R134): what each operation answers, said
once by its name, and the builder's windows as natural numbers. -/

namespace Sys2Proof.Proofs
open Sys2Proof.Machine

/-! ### The builder's arithmetic -/

/-- R101's lower bound, for a value known as a number. -/
theorem windowMin_toNat {v : Word} {x : Nat} (hv : v.toNat = x) (tol : Word) :
    (windowMin v tol).toNat = if x > tol.toNat then x - tol.toNat else 0 := by
  rw [windowMin, clampSub_toNat, hv]
  split <;> omega

/-- R101's upper bound, for a value known as a number. -/
theorem windowMax_toNat {v : Word} {x : Nat} (hv : v.toNat = x) (tol : Word) :
    (windowMax v tol).toNat = min (x + tol.toNat) (2 ^ 32 - 1) := by
  rw [windowMax, satAdd_toNat, hv]

theorem bit0LowNominal_toNat (n : Nominal) :
    (bit0LowNominal n).toNat = min (n.t2Ns.toNat + n.t3Ns.toNat) (2 ^ 32 - 1) :=
  satAdd_toNat _ _

theorem bit1HighNominal_toNat (n : Nominal) :
    (bit1HighNominal n).toNat = min (n.t1Ns.toNat + n.t2Ns.toNat) (2 ^ 32 - 1) :=
  satAdd_toNat _ _

/-- Settles O10: the four nominal values as numbers, then both bounds of the window around each (R100, R102). -/
theorem buildProfileFormulas : Obligations.BuildProfileFormulas := by
  intro n tol
  have h0Low := bit0LowNominal_toNat n
  have h1High := bit1HighNominal_toNat n
  exact ⟨rfl, h0Low, h1High, rfl,
    windowMin_toNat rfl tol, windowMax_toNat rfl tol,
    windowMin_toNat h0Low tol, windowMax_toNat h0Low tol,
    windowMin_toNat h1High tol, windowMax_toNat h1High tol,
    windowMin_toNat rfl tol, windowMax_toNat rfl tol, rfl, rfl⟩

/-! ### What the operations answer -/

theorem exec_buildProfile (dt : Bool) (t1 t2 t3 ru tol : Word) (s : State) :
    exec (.buildProfile dt t1 t2 t3 ru tol) s =
      let p := buildProfile ⟨t1, t2, t3, ru⟩ (effectiveTolerance dt tol)
      .next ((s.setProf p).answer p.words .none) := rfl

theorem exec_setGapTolerance (g : Word) (s : State) :
    exec (.setGapTolerance g) s = .next ((s.setGapTolerance g).answer [] .none) := rfl

theorem exec_getProfile (s : State) : exec .getProfile s = .next (s.answer s.prof.words .none) := rfl

theorem exec_edgeCount (s : State) : exec .edgeCount s = .next (s.answer [s.count] .none) := rfl

theorem exec_isFinished (s : State) :
    exec .isFinished s = .next (s.answer [boolWord s.finished] .none) := rfl

theorem exec_bufferCapacity (s : State) : exec .bufferCapacity s = .next (s.answer [s.capacity] .none) := rfl

theorem exec_getConfig (s : State) : exec .getConfig s = .next (s.answer s.cfg.words .none) := rfl

/-- Settles O12: the meaning stores and answers the one built profile, whose tolerance `dt` selects; the
source's example is computed (R103). -/
theorem buildProfileStoresAndReturns : Obligations.BuildProfileStoresAndReturns :=
  ⟨fun dt t1 t2 t3 ru tol s => ⟨exec_buildProfile dt t1 t2 t3 ru tol s, rfl⟩, by decide⟩

/-! ### The gap rule -/

theorem matchesGap_of_classify {p : Profile} {h l : Duration} (hc : classify p h l = .gap) :
    matchesGap p l = true := by
  unfold classify at hc
  split_ifs at hc with _ _ hgap
  exact hgap

/-- A gap tolerance of 0 turns the gap rule off (R104, R108). -/
theorem classify_ne_gap {p : Profile} (hp : p.gapToleranceNs = 0) (h l : Duration) :
    classify p h l ≠ .gap := by
  intro hc
  have hpos := (matchesGap_iff.1 (matchesGap_of_classify hc)).1
  simp [hp] at hpos

/-- Settles O13: the meaning writes the one field, and with a gap tolerance of 0 no pair is a gap (R104). -/
theorem setGapToleranceWritesOneField : Obligations.SetGapToleranceWritesOneField := by
  intro g s
  exact ⟨_, exec_setGapTolerance g s, rfl, fun hg => classify_ne_gap hg⟩

/-! ### The observers -/

theorem step_hardwareReset {s : State} {rest : List Event} (h : s.inbox = .hardwareReset :: rest) :
    step s = .next (s.setInbox rest).hardwareReset := by
  simp [step, h]

/-- Settles O14: each observer's meaning only answers; a hardware reset leaves the cleared block, whose
registers are zeros by definition (R105, R130 to R132, R134). -/
theorem observersAnswerTheRegisters : Obligations.ObserversAnswerTheRegisters := by
  intro s
  refine ⟨exec_getProfile s, exec_edgeCount s, exec_isFinished s, exec_bufferCapacity s, exec_getConfig s, ?_⟩
  intro rest hs
  let t := (s.setInbox rest).hardwareReset
  exact ⟨t, step_hardwareReset hs, exec_getProfile t, exec_bufferCapacity t, exec_getConfig t⟩

end Sys2Proof.Proofs
end

section
/-! The capture buffer (`41_capture_buffer.md` R120 to R129, R133): what `CONFIGURE`, `PUSH_EDGE`, `FINISH`,
`BUF_RESET` and `GET_RAW_EDGES` answer, said once each, and the statements read off from them. -/

namespace Sys2Proof.Proofs
open Sys2Proof.Machine

/-! ### What the operations answer -/

theorem exec_configure (ovr spl : Bool) (bc lo hi sk oc : Word) (s : State) :
    exec (.configure ovr spl bc lo hi sk oc) s =
      let cap := effectiveCapacity (requestedCapacity ovr bc oc) s.capMax
      .next ((((s.setCfg ⟨bc, lo, hi, sk, spl⟩).setCapacity cap).emptyBuffer).answer [] .none) := rfl

theorem exec_finish (s : State) : exec .finish s = .next (s.setsFinished.answer [] .none) := rfl

theorem exec_bufReset (s : State) : exec .bufReset s = .next (s.emptyBuffer.answer [] .none) := rfl

theorem exec_pushEdge_room {s : State} (hi : Bool) (d : Word) (h : s.count < s.capacity)
    (hc : s.count.toNat < s.capMax.toNat) :
    exec (.pushEdge hi d) s =
      .next (((s.setEdge (s.edge.write s.count.toNat (pack (pushedEdge hi d)))).setCount
        (s.count + 1)).answer [1] .none) :=
  execPushEdge_room hi d h hc

theorem exec_pushEdge_full {s : State} (hi : Bool) (d : Word) (h : ¬ s.count < s.capacity) :
    exec (.pushEdge hi d) s = .next ((s.setFinished true).answer [0] .none) :=
  execPushEdge_full hi d h

/-- `GET_RAW_EDGES` when the slots of the copied range can be read (R133). -/
theorem exec_getRawEdges_of_memRead {s : State} {n off : Word} {ws : List Word}
    (h : memRead s.edge s.capMax off.toNat (copiedEdges s.count n off) = .ok ws) :
    exec (.getRawEdges n off) s =
      .next (s.answer [BitVec.ofNat 32 (copiedEdges s.count n off)] (.edges ws)) := by
  simp [exec, execGetRawEdges, h]

/-! ### `CONFIGURE` -/

/-- R122 on the request that `ovr` selects. -/
theorem effectiveCapacity_requested_toNat (ovr : Bool) (bc oc capMax : Word) :
    (effectiveCapacity (requestedCapacity ovr bc oc) capMax).toNat =
      min (if ovr then oc.toNat else bc.toNat) capMax.toNat := by
  rw [effectiveCapacity_toNat, requestedCapacity, apply_ite BitVec.toNat]

/-- Settles O15: the meaning writes the policy, the clamped capacity and the empty buffer; the two observers
then read those registers (R121, R122, R132, R134). -/
theorem configureStoresPolicyAndEmptiesBuffer : Obligations.ConfigureStoresPolicyAndEmptiesBuffer := by
  intro ovr spl bc lo hi sk oc s
  refine ⟨_, exec_configure ovr spl bc lo hi sk oc s, rfl, ?_, rfl, rfl, rfl, rfl, rfl, rfl,
    exec_getConfig _, exec_bufferCapacity _⟩
  exact effectiveCapacity_requested_toNat ovr bc oc s.capMax

/-- Settles O16: every field written depends on the operands and on `CAP_MAX`, which stays (R123). -/
theorem configureIsIdempotent : Obligations.ConfigureIsIdempotent := by
  intro ovr spl bc lo hi sk oc s t h
  rw [exec_configure] at h
  cases h
  exact ⟨_, exec_configure ovr spl bc lo hi sk oc _, rfl⟩

/-! ### `PUSH_EDGE` and `FINISH` -/

/-- The stored word: the polarity in bit 31, the saturated duration below (R51, R125). -/
theorem pack_pushedEdge_toNat (hi : Bool) (d : Word) :
    (pack (pushedEdge hi d)).toNat = (if hi then 2 ^ 31 else 0) + min d.toNat (2 ^ 31 - 1) := by
  rw [pack_toNat, pushedEdge, saturateDuration_toNat]

/-- Below another word, a word plus one does not wrap. -/
theorem toNat_add_one_of_lt {c k : Word} (h : c < k) : (c + 1).toNat = c.toNat + 1 := by
  bv_omega

/-- Settles O17: with room, slot `COUNT` exists, and the write rules of the store give the slot and its frame;
without room the meaning rejects (R124, R125). -/
theorem pushAppendsWhileThereIsRoom : Obligations.PushAppendsWhileThereIsRoom := by
  intro hi d s
  refine ⟨fun hroom hcap => ?_, exec_pushEdge_full hi d⟩
  have hslot : s.count.toNat < s.capMax.toNat :=
    Nat.lt_of_lt_of_le (BitVec.lt_def.1 hroom) (BitVec.le_def.1 hcap)
  let w := pack (pushedEdge hi d)
  exact ⟨_, w, exec_pushEdge_room hi d hroom hslot, Memory.read_write_same _ _ w,
    pack_pushedEdge_toNat hi d, fun a ha => Memory.read_write_other _ w ha,
    toNat_add_one_of_lt hroom, rfl⟩

/-- Settles O18: a full buffer has no room, and the rejected push leaves it full (R126). -/
theorem pushIntoFullBufferIsRejected : Obligations.PushIntoFullBufferIsRejected := by
  intro hi hi' d d' s hfull
  have hroom : ¬ s.count < s.capacity := by
    rw [hfull]
    exact BitVec.lt_irrefl _
  exact ⟨_, exec_pushEdge_full hi d hroom, rfl, exec_pushEdge_full hi' d' hroom⟩

/-- Settles O20: the meaning sets the flag, and setting it again leaves the state (R128). -/
theorem finishSetsTheFlagOnly : Obligations.FinishSetsTheFlagOnly := by
  intro s
  exact ⟨_, exec_finish s, rfl, exec_finish _⟩

/-- Settles O19: `FINISH` leaves `COUNT`, `CAPACITY` and the slots, so the push finds the same room; an
accepted push does not touch `FINISHED` (R127). -/
theorem pushAfterFinishIsStillAppended : Obligations.PushAfterFinishIsStillAppended := by
  intro hi d s t hroom hcap h
  rw [exec_finish] at h
  cases h
  obtain ⟨t', w, hexec, hread, hw, hother, hcount, ht⟩ :=
    (pushAppendsWhileThereIsRoom hi d (s.setsFinished.answer [] .none)).1 hroom hcap
  have hfinished : t'.finished = true := by rw [ht]; rfl
  exact ⟨t', w, hexec, hread, hw, hother, hcount, hfinished, ht⟩

/-! ### `GET_RAW_EDGES` and `BUF_RESET` -/

/-- The clipped range can always be read: it is empty or lies inside the valid region (R56, R133). -/
theorem memRead_copiedEdges {s : State} (h : s.bufferInv) (n off : Word) :
    ∃ ws, memRead s.edge s.capMax off.toNat (copiedEdges s.count n off) = .ok ws := by
  by_cases h0 : copiedEdges s.count n off = 0
  · rw [h0]
    exact ⟨[], rfl⟩
  · exact h.memRead_ok (copiedEdges_inside s.count n off h0)

/-- Settles O22: the clipped range can be read, and a read that succeeds gives as many words as asked for,
each the word of its slot (R133). -/
theorem rawEdgesAreTheStoredWords : Obligations.RawEdgesAreTheStoredWords := by
  intro n off s hinv
  obtain ⟨ws, hws⟩ := memRead_copiedEdges hinv n off
  obtain ⟨hlen, hwords⟩ := memRead_ok hws
  refine ⟨ws, ?_, hlen, fun j hj => (hwords j (hlen ▸ hj)).2.symm⟩
  rw [hlen]
  exact exec_getRawEdges_of_memRead hws

theorem exec_getRawEdges_empty {s : State} (h : s.count = 0) (n off : Word) :
    exec (.getRawEdges n off) s = .next (s.answer [0] (.edges [])) := by
  have hnone : copiedEdges s.count n off = 0 := by
    rw [copiedEdges_eq, h]
    simp
  have hread : memRead s.edge s.capMax off.toNat (copiedEdges s.count n off) = .ok [] := by
    rw [hnone]
    rfl
  rw [exec_getRawEdges_of_memRead hread, hnone]
  rfl

/-- Settles O21: the meaning empties the buffer and keeps the rest; with `COUNT` 0 no slot is copied (R129). -/
theorem bufResetEmptiesAndKeepsPolicy : Obligations.BufResetEmptiesAndKeepsPolicy := by
  intro s
  exact ⟨_, exec_bufReset s, rfl, rfl, rfl, rfl, rfl, rfl, rfl, rfl, exec_getRawEdges_empty rfl⟩

end Sys2Proof.Proofs
end

section
/-! The decoder as a function of the edges (`42_decoder.md` R152, R153, R159, R160): its result depends on the
completed bytes only, and those on the aligned edges. -/

namespace Sys2Proof.Proofs
open Sys2Proof.Machine

/-! ### The function on a nonempty input -/

theorem decodeEdges_of_ne_nil {es : List Edge} (hes : es ≠ []) (p : Profile) (spl : Bool) (n : Word) :
    decodeEdges es p spl n =
      if n.toNat < (decodedBytes es p spl).length then .err .bufferOverflow
      else .ok (decodedBytes es p spl) := by
  obtain ⟨e, rest, rfl⟩ := List.exists_cons_of_ne_nil hes
  exact decodeEdges_cons e rest p spl n

theorem decodeEdges_eq_ok {es : List Edge} {p : Profile} {spl : Bool} {n : Word} {bs : List Byte}
    (hes : es ≠ []) (hbs : decodedBytes es p spl = bs) (hn : bs.length ≤ n.toNat) :
    decodeEdges es p spl n = .ok bs := by
  rw [decodeEdges_of_ne_nil hes, hbs, if_neg (Nat.not_lt.2 hn)]

theorem decodeEdges_congr {es es' : List Edge} {p : Profile} {spl : Bool} (hes : es ≠ []) (hes' : es' ≠ [])
    (h : decodedBytes es p spl = decodedBytes es' p spl) (n : Word) :
    decodeEdges es p spl n = decodeEdges es' p spl n := by
  rw [decodeEdges_of_ne_nil hes, decodeEdges_of_ne_nil hes', h]

theorem decodedBytes_of_aligned {es l : List Edge} {spl : Bool} (h : alignEdges spl es = l) (p : Profile) :
    decodedBytes es p spl = (decodePairs p l .empty).bytes := by
  rw [decodedBytes, h]

/-! ### Alignment -/

theorem alignEdges_idle_append {spl : Bool} {idle : List Edge} (h : ∀ e ∈ idle, e.isHigh ≠ spl)
    (es : List Edge) : alignEdges spl (idle ++ es) = alignEdges spl es :=
  List.dropWhile_append_of_pos fun e he => bne_iff_ne.2 (h e he)

theorem alignEdges_idle {spl : Bool} {idle : List Edge} (h : ∀ e ∈ idle, e.isHigh ≠ spl) :
    alignEdges spl idle = [] := by
  simpa [alignEdges] using alignEdges_idle_append h []

theorem alignEdges_of_head {spl : Bool} {es : List Edge} (h : ∀ e, es.head? = some e → e.isHigh = spl) :
    alignEdges spl es = es := by
  cases es with
  | nil => rfl
  | cons e rest => exact alignEdges_cons_match (h e rfl) rest

/-- Settles O35: idle edges are dropped by the alignment, and an input with nothing aligned completes no byte,
so only the empty list, which the function tells apart, is another outcome (R153). -/
theorem alignmentDiscardsIdleEdges : Obligations.AlignmentDiscardsIdleEdges := by
  intro P spl n idle hidle
  refine ⟨fun hne => decodeEdges_eq_ok hne ?_ (Nat.zero_le _), fun e rest _ => ?_⟩
  · rw [decodedBytes_of_aligned (alignEdges_idle hidle), decodePairs_nil]
    rfl
  · exact decodeEdges_congr (by simp) (by simp)
      (decodedBytes_of_aligned (alignEdges_idle_append hidle _) P) n

/-! ### The end of the pair loop -/

/-- Behind whole pairs, edges on which the loop ends at once change nothing: the loop reaches them as they
stand, or has stopped before (R154, R159, R160). -/
theorem decodePairs_append_of_ends {p : Profile} {tail : List Edge}
    (htail : ∀ a, decodePairs p tail a = a) :
    ∀ (before : List Edge) (a : Accumulator), before.length % 2 = 0 →
      decodePairs p (before ++ tail) a = decodePairs p before a
  | [], a, _ => htail a
  | [_], _, h => absurd h (by simp)
  | x :: y :: rest, a, h => by
    have ih (a : Accumulator) := decodePairs_append_of_ends htail rest a (by simp only [List.length_cons] at h; omega)
    rw [List.cons_append, List.cons_append]
    cases hc : classify p x.durationNs y.durationNs with
    | stop => rw [decodePairs_stop hc, decodePairs_stop hc]
    | gap => rw [decodePairs_gap hc, decodePairs_gap hc, ih]
    | bit0 => rw [decodePairs_bit0 hc, decodePairs_bit0 hc, ih]
    | bit1 => rw [decodePairs_bit1 hc, decodePairs_bit1 hc, ih]

/-- Settles O38: the input is aligned at its first edge, and behind whole pairs a `STOP` pair ends the loop
with what those pairs completed (R159). -/
theorem stopKeepsCompletedBytes : Obligations.StopKeepsCompletedBytes := by
  intro P spl n before x y after heven hhead hstop hlen
  have hwhole : alignEdges spl (before ++ x :: y :: after) = before ++ x :: y :: after :=
    alignEdges_of_head fun e he => hhead e (by simpa using he)
  have hbefore : alignEdges spl before = before :=
    alignEdges_of_head fun e he => hhead e (by simp [he])
  have hbytes : decodedBytes (before ++ x :: y :: after) P spl = decodedBytes before P spl := by
    rw [decodedBytes_of_aligned hwhole, decodedBytes_of_aligned hbefore,
      decodePairs_append_of_ends (decodePairs_stop hstop after) before _ heven]
  exact decodeEdges_eq_ok (by simp) hbytes hlen

/-- Settles O40: one edge is no pair, so the loop ends on it; behind an aligned edge it stays behind the
aligned ones, and alone it completes no byte (R160). -/
theorem trailingEdgeIsIgnored : Obligations.TrailingEdgeIsIgnored := by
  have hpairs (P : Profile) (es : List Edge) (e : Edge) (a : Accumulator) (heven : es.length % 2 = 0) :
      decodePairs P (es ++ [e]) a = decodePairs P es a :=
    decodePairs_append_of_ends (decodePairs_one P e) es a heven
  refine ⟨hpairs, fun P spl n es e hne heven => ?_, fun P spl n e => ?_⟩
  · have hes : es ≠ [] := by
      rintro rfl
      exact hne rfl
    have hbytes : decodedBytes (es ++ [e]) P spl = decodedBytes es P spl := by
      rw [decodedBytes_of_aligned (alignEdges_append hne [e]), hpairs P _ e _ heven, decodedBytes]
    exact decodeEdges_congr (by simp) hes hbytes n
  · by_cases he : e.isHigh = spl
    · have hbytes : decodedBytes [e] P spl = [] := by
        rw [decodedBytes_of_aligned (alignEdges_cons_match he []), decodePairs_one]
        rfl
      exact decodeEdges_eq_ok (by simp) hbytes (Nat.zero_le _)
    · exact (alignmentDiscardsIdleEdges P spl n [e] (by simpa using he)).1 (by simp)

end Sys2Proof.Proofs
end

section
/-! The operation `DECODE` on the captured edges (R151, R152, R161): what it answers, said once for the empty
and once for the nonempty buffer. -/

namespace Sys2Proof.Proofs
open Sys2Proof.Machine Sys2Proof.Claims

theorem captured_ne_nil {s : State} (hinv : s.bufferInv) (hcount : s.count ≠ 0) : captured s ≠ [] := by
  obtain ⟨-, -, hslots⟩ := hinv
  have hlen : s.edge.length = s.count.toNat := by simpa using congrArg List.length hslots
  have hpos : s.count.toNat ≠ 0 := fun h => hcount (BitVec.eq_of_toNat_eq h)
  intro h
  apply hpos
  rw [← hlen]
  simpa [captured] using congrArg List.length h

theorem exec_decode_empty {s : State} (spl : Bool) (n : Word) (h : s.count = 0) :
    exec (.decode spl n) s = .next (s.raise .invalidArgument) :=
  execDecode_empty spl n h

/-- `DECODE` on a nonempty buffer: the whole decoded length against the output size (R151, R161). -/
theorem exec_decode_captured {s : State} (hinv : s.bufferInv) (hcount : s.count ≠ 0) (spl : Bool) (n : Word) :
    let bytes := decodedBytes (captured s) s.prof spl
    exec (.decode spl n) s =
      if n.toNat < bytes.length then .next (s.raise .bufferOverflow)
      else .next (s.answer [BitVec.ofNat 32 bytes.length] (.bytes bytes)) := by
  intro bytes
  have hedges : (s.edge.map Prod.snd).map unpack = captured s := rfl
  have hdecode := decodeEdges_of_ne_nil (captured_ne_nil hinv hcount) s.prof spl n
  simp only [exec, execDecode, hinv.memRead_all, hedges, hdecode]
  by_cases h : n.toNat < bytes.length
  · rw [if_pos h, if_pos h]
    rfl
  · rw [if_neg h, if_neg h]

/-- Settles O41: the two branches of what `DECODE` answers on a nonempty buffer (R161). -/
theorem capacityCheckUsesTheWholeLength : Obligations.CapacityCheckUsesTheWholeLength := by
  intro spl n s hinv hcount bytes
  have hexec := exec_decode_captured hinv hcount spl n
  refine ⟨fun hover => ?_, fun hfits => ?_⟩
  · rw [hexec, if_pos hover]
    rfl
  · rw [hexec, if_neg (Nat.not_lt.2 hfits)]
    rfl

/-- Settles O34: an empty buffer raises `InvalidArgument`; a nonempty one is answered with status 2 or 0; a
`STOP` pair at the aligned edge ends the loop before any bit (R152). -/
theorem emptyInputIsInvalidArgument : Obligations.EmptyInputIsInvalidArgument := by
  refine ⟨fun spl n s hinv => ⟨exec_decode_empty spl n, fun hcount => ?_⟩, decodeEdges_nil, ?_⟩
  · obtain ⟨hover, hfits⟩ := capacityCheckUsesTheWholeLength spl n s hinv hcount
    rcases Nat.lt_or_ge n.toNat (decodedBytes (captured s) s.prof spl).length with h | h
    · exact ⟨_, hover h, (by decide : (2 : Word) ≠ 3)⟩
    · exact ⟨_, hfits h, (by decide : (0 : Word) ≠ 3)⟩
  · intro x y rest P n hstop
    have hbytes : decodedBytes (x :: y :: rest) P x.isHigh = [] := by
      rw [decodedBytes_of_aligned (alignEdges_cons_match rfl _), decodePairs_stop hstop]
      rfl
    exact decodeEdges_eq_ok (by simp) hbytes (Nat.zero_le _)

end Sys2Proof.Proofs
end

section
/-! The bit-phase accumulator (R158): read back in order, the bits it stores, first of the completed bytes and
then of the one being filled, are the bits that arrived. -/

namespace Sys2Proof.Proofs
open Sys2Proof.Machine

/-! ### One bit -/

theorem shiftIn_completes {a : Accumulator} (h : a.nbits + 1 = 8) (b : Bool) :
    a.shiftIn b = ⟨0, 0, a.bytes ++ [shiftBit a.acc b]⟩ :=
  if_pos h

theorem shiftIn_waits {a : Accumulator} (h : a.nbits + 1 ≠ 8) (b : Bool) :
    a.shiftIn b = ⟨shiftBit a.acc b, a.nbits + 1, a.bytes⟩ :=
  if_neg h

theorem shiftBit_getLsbD_zero (acc : Byte) (b : Bool) : (shiftBit acc b).getLsbD 0 = b := by
  cases b <;> simp [shiftBit]

theorem shiftBit_getLsbD_succ (acc : Byte) (b : Bool) {i : Nat} (h : i + 1 < 8) :
    (shiftBit acc b).getLsbD (i + 1) = acc.getLsbD i := by
  cases b <;> simp [shiftBit, h, BitVec.getLsbD_eq_getElem (show i < 8 by omega)]

/-! ### The stored bits -/

/-- The low `n` bits of a byte, the most significant of them first. -/
def lowBitsMsbFirst (n : Nat) (acc : Byte) : List Bool := (List.range n).map fun j => acc.getLsbD (n - 1 - j)

theorem lowBitsMsbFirst_eight (acc : Byte) : lowBitsMsbFirst 8 acc = bitsMsbFirst acc := rfl

theorem length_lowBitsMsbFirst (n : Nat) (acc : Byte) : (lowBitsMsbFirst n acc).length = n := by
  simp [lowBitsMsbFirst]

theorem lowBitsMsbFirst_shiftBit {n : Nat} (hn : n < 8) (acc : Byte) (b : Bool) :
    lowBitsMsbFirst (n + 1) (shiftBit acc b) = lowBitsMsbFirst n acc ++ [b] := by
  have hlast : (shiftBit acc b).getLsbD (n + 1 - 1 - n) = b := by
    rw [Nat.add_sub_cancel, Nat.sub_self, shiftBit_getLsbD_zero]
  have hrest : ∀ j ∈ List.range n, (shiftBit acc b).getLsbD (n + 1 - 1 - j) = acc.getLsbD (n - 1 - j) := by
    intro j hj
    have hj := List.mem_range.1 hj
    rw [show n + 1 - 1 - j = n - 1 - j + 1 by omega, shiftBit_getLsbD_succ acc b (by omega)]
  rw [lowBitsMsbFirst, List.range_succ, List.map_append, List.map_congr_left hrest, List.map_singleton, hlast,
    lowBitsMsbFirst]

/-- The bits an accumulator holds, in order of arrival. -/
def storedBits (a : Accumulator) : List Bool := a.bytes.flatMap bitsMsbFirst ++ lowBitsMsbFirst a.nbits a.acc

/-- A bit that enters is stored behind the others, whether or not it completes a byte. -/
theorem storedBits_shiftIn {a : Accumulator} (ha : a.nbits < 8) (b : Bool) :
    storedBits (a.shiftIn b) = storedBits a ++ [b] := by
  have hbits := lowBitsMsbFirst_shiftBit ha a.acc b
  by_cases h : a.nbits + 1 = 8
  · rw [h, lowBitsMsbFirst_eight] at hbits
    simp [shiftIn_completes h, storedBits, hbits, lowBitsMsbFirst]
  · simp [shiftIn_waits h, storedBits, hbits]

theorem nbits_shiftIn_lt {a : Accumulator} (ha : a.nbits < 8) (b : Bool) : (a.shiftIn b).nbits < 8 := by
  by_cases h : a.nbits + 1 = 8
  · simp [shiftIn_completes h]
  · rw [shiftIn_waits h]
    exact (by omega : a.nbits + 1 < 8)

theorem storedBits_foldl_shiftIn (bits : List Bool) {a : Accumulator} (ha : a.nbits < 8) :
    (bits.foldl Accumulator.shiftIn a).nbits < 8 ∧
      storedBits (bits.foldl Accumulator.shiftIn a) = storedBits a ++ bits := by
  induction bits generalizing a with
  | nil => simpa using ha
  | cons b bits ih =>
    obtain ⟨hlt, hstored⟩ := ih (nbits_shiftIn_lt ha b)
    exact ⟨hlt, by rw [List.foldl_cons, hstored, storedBits_shiftIn ha, List.append_assoc]; rfl⟩

/-! ### Bits by position -/

theorem length_flatMap_bitsMsbFirst (bs : List Byte) : (bs.flatMap bitsMsbFirst).length = 8 * bs.length := by
  induction bs with
  | nil => rfl
  | cons b bs ih =>
    rw [List.flatMap_cons, List.length_append, ih, List.length_cons]
    exact (by omega : 8 + 8 * bs.length = 8 * (bs.length + 1))

theorem getElem?_bitsMsbFirst (b : Byte) {j : Nat} (hj : j < 8) :
    (bitsMsbFirst b)[j]? = some (b.getLsbD (7 - j)) := by
  rw [← lowBitsMsbFirst_eight]
  simp [lowBitsMsbFirst, hj]

theorem getElem?_flatMap_bitsMsbFirst (bs : List Byte) (k : Nat) {j : Nat} (hj : j < 8) :
    (bs.flatMap bitsMsbFirst)[8 * k + j]? = bs[k]?.map fun b => b.getLsbD (7 - j) := by
  induction bs generalizing k with
  | nil => simp
  | cons b bs ih =>
    have hlen : (bitsMsbFirst b).length = 8 := rfl
    rw [List.flatMap_cons]
    cases k with
    | zero =>
      rw [List.getElem?_append_left (by omega), Nat.mul_zero, Nat.zero_add, getElem?_bitsMsbFirst b hj]
      rfl
    | succ k =>
      rw [List.getElem?_append_right (by omega), hlen, show 8 * (k + 1) + j - 8 = 8 * k + j by omega, ih,
        List.getElem?_cons_succ]

/-- Settles O37: the pair loop enters the bits; the stored bits are the arrived ones, so their number and
position give the bytes, the waiting count and each bit's place (R158). -/
theorem eightBitsMakeAByteMsbFirst : Obligations.EightBitsMakeAByteMsbFirst := by
  refine ⟨fun P x y rest a => ⟨fun h => decodePairs_bit0 h rest a, fun h => decodePairs_bit1 h rest a⟩,
    fun bits => ?_⟩
  intro a
  obtain ⟨hlt, hstored⟩ : a.nbits < 8 ∧ storedBits a = bits :=
    storedBits_foldl_shiftIn bits (a := .empty) (by decide)
  have hlen : bits.length = 8 * a.bytes.length + a.nbits := by
    rw [← hstored, storedBits, List.length_append, length_flatMap_bitsMsbFirst, length_lowBitsMsbFirst]
  refine ⟨by omega, by omega, fun k j hj hk => ?_⟩
  calc (a.bytes[k]?.map fun b => b.getLsbD (7 - j))
      = (a.bytes.flatMap bitsMsbFirst)[8 * k + j]? := (getElem?_flatMap_bitsMsbFirst a.bytes k hj).symm
    _ = (storedBits a)[8 * k + j]? :=
        (List.getElem?_append_left (by rwa [length_flatMap_bitsMsbFirst])).symm
    _ = bits[8 * k + j]? := by rw [hstored]

end Sys2Proof.Proofs
end

section
/-! The cursor form of the decoder (R163): the cursor stands for the edges from it on, and the loop's four
variables for an accumulator and the number of its bytes. -/

namespace Sys2Proof.Proofs
open Sys2Proof.Machine

theorem alignEdges_eq_drop_findIdx (spl : Bool) (es : List Edge) :
    alignEdges spl es = es.drop (es.findIdx fun e => e.isHigh == spl) := by
  rw [alignEdges, List.dropWhile_eq_drop_findIdx_not]
  simp only [bne, Bool.not_not]

/-- The loop's variables after a bit, written out in both branches, are those of the accumulator it entered. -/
theorem cursorLoop_shiftIn (es : List Edge) (p : Profile) (fuel i : Nat) (a : Accumulator) (b : Bool) :
    (if a.nbits + 1 = 8 then cursorLoop es p fuel i 0 0 (a.bytes ++ [shiftBit a.acc b]) (a.bytes.length + 1)
      else cursorLoop es p fuel i (shiftBit a.acc b) (a.nbits + 1) a.bytes a.bytes.length) =
    cursorLoop es p fuel i (a.shiftIn b).acc (a.shiftIn b).nbits (a.shiftIn b).bytes
      (a.shiftIn b).bytes.length := by
  split
  next h => rw [shiftIn_completes h, List.length_append, List.length_singleton]
  next h => rw [shiftIn_waits h]

/-- With fuel for every pair left, the loop ends with the bytes of the pair loop and their number (R166). -/
theorem cursorLoop_eq_decodePairs {es : List Edge} (p : Profile) {fuel i : Nat} (a : Accumulator)
    (hfuel : es.length ≤ i + 2 * fuel) :
    cursorLoop es p fuel i a.acc a.nbits a.bytes a.bytes.length =
      ((decodePairs p (es.drop i) a).bytes, (decodePairs p (es.drop i) a).bytes.length) := by
  induction fuel generalizing i a with
  | zero =>
    rw [List.drop_eq_nil_of_le (by omega), decodePairs_nil]
    rfl
  | succ fuel ih =>
    have hfirst : es[i]? = (es.drop i)[0]? := by simp
    have hsecond : es[i + 1]? = (es.drop i)[1]? := by simp
    have hnext (a : Accumulator) := ih (i := i + 2) a (by omega)
    rw [← List.drop_drop] at hnext
    rw [cursorLoop, hfirst, hsecond]
    match hl : es.drop i with
    | [] => rfl
    | [x] => rfl
    | x :: y :: rest =>
      rw [hl] at hnext
      simp only [List.getElem?_cons_zero, List.getElem?_cons_succ]
      cases hc : classify p x.durationNs y.durationNs with
      | stop => rw [decodePairs_stop hc]
      | gap => rw [decodePairs_gap hc]; exact hnext a
      | bit0 => rw [decodePairs_bit0 hc]; exact (cursorLoop_shiftIn es p fuel (i + 2) a false).trans (hnext _)
      | bit1 => rw [decodePairs_bit1 hc]; exact (cursorLoop_shiftIn es p fuel (i + 2) a true).trans (hnext _)

/-- Settles O44: the empty test is the same; the scan finds no index exactly when nothing is aligned, and from
the found index the loop computes the decoded bytes and their number (R163). -/
theorem decodeIsTheCursorPseudocode : Obligations.DecodeIsTheCursorPseudocode := by
  intro es P spl n
  unfold decodeByCursor
  by_cases hes : es = []
  · rw [hes]
    rfl
  rw [if_neg fun h => hes (List.length_eq_zero_iff.1 h)]
  cases ha : es.findIdx? fun e => e.isHigh == spl with
  | none =>
    have hidle : ∀ e ∈ es, e.isHigh ≠ spl := fun e he => by
      simpa using List.findIdx?_eq_none_iff.1 ha e he
    exact (alignmentDiscardsIdleEdges P spl n es hidle).1 hes
  | some i =>
    obtain ⟨-, hi⟩ := List.findIdx?_eq_some_iff_findIdx_eq.1 ha
    have hbytes : decodedBytes es P spl = (decodePairs P (es.drop i) .empty).bytes :=
      decodedBytes_of_aligned (hi ▸ alignEdges_eq_drop_findIdx spl es) P
    have hloop : cursorLoop es P es.length i 0 0 [] 0 =
        (decodedBytes es P spl, (decodedBytes es P spl).length) := by
      rw [hbytes]
      exact cursorLoop_eq_decodePairs P .empty (by omega)
    simp only [hloop]
    exact decodeEdges_of_ne_nil hes P spl n

end Sys2Proof.Proofs
end

section
/-! Errors (`60_exceptions.md` R180 to R188) and the idle step (R195): what can be the response to an event,
said once for an operation and once for a step. -/

namespace Sys2Proof.Proofs
open Sys2Proof.Machine Sys2Proof.Claims

/-! ### What an operation can answer -/

/-- The operation ends with status `OK`: whatever it has written, its answer is the one response it adds. -/
inductive EndsOk (s : State) : State → Prop
  | answer {u : State} {ws : List Word} {p : Payload} (hu : u.responses = s.responses) : EndsOk s (u.answer ws p)

theorem endsOk_of_next {s t u : State} {ws : List Word} {p : Payload}
    (h : (.next (u.answer ws p) : Host.Outcome State Fault Refusal) = .next t)
    (hu : u.responses = s.responses) : EndsOk s t := by
  cases h
  exact .answer hu

theorem EndsOk.responses_eq {s t : State} (h : EndsOk s t) :
    ∃ ws p, t.responses = s.responses ++ [⟨Status.ok.word, ws, p⟩] := by
  cases h with
  | answer hu => exact ⟨_, _, by rw [State.answer_responses, hu]⟩

/-- `DECODE` has two error kinds: the third, `HighErrorRate`, is never produced (R180, R183). -/
theorem status_of_decodeEdges_err {es : List Edge} {p : Profile} {spl : Bool} {n : Word} {e : DecodeError}
    (h : decodeEdges es p spl n = .err e) : e.status = .invalidArgument ∨ e.status = .bufferOverflow := by
  cases es with
  | nil =>
    rw [decodeEdges_nil] at h
    cases h
    exact .inl rfl
  | cons x es =>
    rw [decodeEdges_cons] at h
    split at h
    · cases h
      exact .inr rfl
    · cases h

/-- An operation ends with status `OK`, or it is a `DECODE` that only raises one of its two errors (R74, R180). -/
theorem exec_next {i : Instr} {s t : State} (h : exec i s = .next t) :
    EndsOk s t ∨
      ∃ spl n e, i = .decode spl n ∧ (e = .invalidArgument ∨ e = .bufferOverflow) ∧ t = s.raise e := by
  cases i
  case pushEdge hi d =>
    left
    obtain ⟨-, -, rfl⟩ | ⟨-, rfl⟩ := execPushEdge_next h
    · exact .answer rfl
    · exact .answer rfl
  case getRawEdges n off =>
    obtain ⟨ws, -, rfl⟩ := execGetRawEdges_next h
    exact .inl (.answer rfl)
  case decode spl n =>
    obtain ⟨ws, -, ⟨bs, -, rfl⟩ | ⟨e, he, rfl⟩⟩ := execDecode_next h
    · exact .inl (.answer rfl)
    · exact .inr ⟨spl, n, e.status, rfl, status_of_decodeEdges_err he, rfl⟩
  all_goals exact .inl (endsOk_of_next h rfl)

/-! ### What a step can answer -/

/-- The errors a packet can be answered with: `ILLEGAL_COMMAND` if it is no command, the two error kinds of
`DECODE` if it is that command (R180, R185). -/
inductive ErrorOf (p : Packet) : Status → Prop
  | illegalCommand {x : Illegal} (h : decode p = .error x) : ErrorOf p .illegalCommand
  | invalidArgument {spl : Bool} {n : Word} (h : decode p = .ok (.decode spl n)) : ErrorOf p .invalidArgument
  | bufferOverflow {spl : Bool} {n : Word} (h : decode p = .ok (.decode spl n)) : ErrorOf p .bufferOverflow

theorem newResponses_of_append {s t : State} {rs : List Response} (h : t.responses = s.responses ++ rs) :
    newResponses s t = rs := by
  rw [newResponses, h, List.drop_left]

/-- A response that a step adds has status `OK`, or it is the status word alone of an error of the packet
taken, and all that the step does besides taking it (R186). -/
theorem newResponse_cases {s t : State} {r : Response} (h : step s = .next t) (hr : r ∈ newResponses s t) :
    r.status = Status.ok.word ∨
      ∃ p rest e, s.inbox = .command p :: rest ∧ ErrorOf p e ∧ r = ⟨e.word, [], .none⟩ ∧
        t = (s.setInbox rest).raise e := by
  have hsilent (ht : t.responses = s.responses) : False := by
    rw [newResponses_of_append (rs := []) (by rw [ht, List.append_nil])] at hr
    exact List.not_mem_nil hr
  have honly {r' : Response} (ht : t.responses = s.responses ++ [r']) : r = r' := by
    rw [newResponses_of_append ht] at hr
    exact List.mem_singleton.1 hr
  obtain ⟨-, rfl⟩ | ⟨p, rest, i, hs, hd, hi⟩ | ⟨p, rest, x, hs, hd, rfl⟩ | ⟨rest, -, rfl⟩ := step_cases h
  · exact (hsilent rfl).elim
  · obtain hend | ⟨spl, n, e, rfl, he, rfl⟩ := exec_next hi
    · obtain ⟨ws, pl, ht⟩ := hend.responses_eq
      left
      rw [honly ht]
    · obtain rfl | rfl := he
      · exact .inr ⟨p, rest, _, hs, .invalidArgument hd, honly rfl, rfl⟩
      · exact .inr ⟨p, rest, _, hs, .bufferOverflow hd, honly rfl, rfl⟩
  · exact .inr ⟨p, rest, _, hs, .illegalCommand hd, honly rfl, rfl⟩
  · exact (hsilent rfl).elim

/-! ### The statements -/

/-- Settles O49: a nonzero status is an error's, and its response is all that the step adds (R186). -/
theorem errorsChangeNothing : Obligations.ErrorsChangeNothing := by
  intro s t r h hr hne
  obtain hok | ⟨p, rest, e, hs, -, rfl, rfl⟩ := newResponse_cases h hr
  · exact absurd hok hne
  · rw [hs]
    exact ⟨rfl, rfl, rfl⟩

theorem headerFlags_getLsbD (h : Word) {j : Nat} (hj : j < 8) : (headerFlags h).getLsbD j = h.getLsbD j := by
  simp [headerFlags, hj]

/-- R76 and R77, bit by bit: in a header that decodes, a flag bit outside the operation's mask is 0. -/
theorem flag_eq_false_of_decode {p : Packet} {i : Instr} (h : decode p = .ok i) {j : Nat} (hj : j < 8)
    (hmask : i.opcode.flagMask.getLsbD j = false) : p.header.getLsbD j = false := by
  obtain ⟨o, -, -, hflags, hi⟩ := decode_ok h
  obtain ⟨rfl, -⟩ := assemble_some hi
  have hbit : (headerFlags p.header &&& ~~~i.opcode.flagMask).getLsbD j = false := by
    rw [hflags, BitVec.ofNat_eq_ofNat, BitVec.getLsbD_zero]
  rwa [BitVec.getLsbD_and, BitVec.getLsbD_not, hmask, decide_eq_true hj, Bool.not_false, Bool.and_true,
    Bool.and_true, headerFlags_getLsbD _ hj] at hbit

theorem opcode_of_decode {p : Packet} {i : Instr} (h : decode p = .ok i) {o : Opcode}
    (ho : p.header.toNat / 2 ^ 24 = o.code.toNat) : i.opcode = o := by
  obtain ⟨o', ho', -, -, hi⟩ := decode_ok h
  rw [headerOpcode_eq_iff.2 ho, o.ofByte?_code] at ho'
  cases ho'
  exact (assemble_some hi).1

/-- Settles O48: the errors of a packet have status 15, 3 and 2, the last two only for `DECODE`; and bit 1 is
outside the flag mask of `DECODE` (R183). -/
theorem highErrorRateIsNeverProduced : Obligations.HighErrorRateIsNeverProduced := by
  refine ⟨fun s t r h hr => ?_, fun h ws hop hbit i hd => ?_⟩
  · obtain hok | ⟨p, rest, e, hs, he, rfl, -⟩ := newResponse_cases h hr
    · rw [hok]
      exact ⟨by decide, by decide, fun hdecode => absurd hdecode (by decide)⟩
    · cases he with
      | illegalCommand => exact ⟨by decide, by decide, fun hdecode => absurd hdecode (by decide)⟩
      | invalidArgument hd => exact ⟨by decide, by decide, fun _ => ⟨_, _, p, rest, hs, hd⟩⟩
      | bufferOverflow hd => exact ⟨by decide, by decide, fun _ => ⟨_, _, p, rest, hs, hd⟩⟩
  · have hopcode : i.opcode = .decode := opcode_of_decode hd hop
    have hreserved : h.getLsbD 1 = false :=
      flag_eq_false_of_decode hd (by decide) (by rw [hopcode]; decide)
    exact Bool.false_ne_true (hreserved.symm.trans hbit)

/-- Settles O6: the step on an empty stream (R195). -/
theorem stepWithNothingPresentedHoldsTheState : Obligations.StepWithNothingPresentedHoldsTheState :=
  fun _ => step_idle

end Sys2Proof.Proofs
end

section
/-! Hardware reset (`70_reset_and_hazards.md` R200): the cleared block is an unconfigured buffer, so it has no
room for a push and no edge to decode. -/

namespace Sys2Proof.Proofs
open Sys2Proof.Machine

theorem windowsOrdered_zero : Profile.zero.windowsOrdered := by decide

/-- `CAPACITY` 0 leaves no room (R126, R200). -/
theorem exec_pushEdge_hardwareReset (s : State) (hi : Bool) (d : Word) :
    exec (.pushEdge hi d) s.hardwareReset = .next ((s.hardwareReset.setFinished true).answer [0] .none) :=
  exec_pushEdge_full hi d (BitVec.lt_irrefl 0)

/-- `COUNT` 0 leaves nothing to decode (R152, R200). -/
theorem exec_decode_hardwareReset (s : State) (spl : Bool) (n : Word) :
    exec (.decode spl n) s.hardwareReset = .next (s.hardwareReset.raise .invalidArgument) :=
  exec_decode_empty spl n s.hardwareReset_count

/-- Settles O7: the step leaves the cleared block, whose registers are zeros by definition; with no capacity it
rejects every push, with no edge it decodes nothing; the model's reset state is written with the same zeros
(R31, R200). -/
theorem hardwareResetClearsTheBlock : Obligations.HardwareResetClearsTheBlock := by
  refine ⟨fun s rest hs => ?_, rfl, rfl, rfl, rfl, rfl, rfl⟩
  let u := s.setInbox rest
  exact ⟨u.hardwareReset, step_hardwareReset hs, rfl, rfl, rfl, rfl, rfl, rfl, windowsOrdered_zero,
    exec_pushEdge_hardwareReset u, exec_decode_hardwareReset u⟩

end Sys2Proof.Proofs
end

section
/-! The command decoder (`30_encoding.md` R71 to R80): the flag byte of an operation is its booleans in the bits
that R76 defines for it, so a header that decodes is the one the encoder writes, and the operand words pass
through. -/

namespace Sys2Proof.Proofs
open Sys2Proof.Machine

/-! ### The flag byte -/

theorem reservedFlags_eq_zero_iff {f : Byte} (o : Opcode) :
    f &&& ~~~o.flagMask = 0 ↔ f.toNat ≤ o.flagMask.toNat := by
  obtain ⟨k, hk⟩ := flagMask_eq_lowMask o
  exact and_not_lowMask_eq_zero_iff hk

theorem flagByte_oneFlag_le (a : Bool) : (flagByte a false).toNat ≤ 1 := by cases a <;> decide

theorem flagByte_le (a b : Bool) : (flagByte a b).toNat ≤ 3 := by cases a <;> cases b <;> decide

theorem flags_le_flagMask (i : Instr) : i.flags.toNat ≤ i.opcode.flagMask.toNat := by
  cases i
  case buildProfile | pushEdge | decode => exact flagByte_oneFlag_le _
  case configure => exact flagByte_le _ _
  all_goals exact Nat.le_refl 0

theorem flagByte_of_le_one {f : Byte} (hf : f.toNat ≤ 1) : flagByte (f.getLsbD 0) false = f := by
  obtain rfl | rfl : f = 0 ∨ f = 1 := by bv_omega
  all_goals rfl

theorem flagByte_of_le_three {f : Byte} (hf : f.toNat ≤ 3) : flagByte (f.getLsbD 0) (f.getLsbD 1) = f := by
  obtain rfl | rfl | rfl | rfl : f = 0 ∨ f = 1 ∨ f = 2 ∨ f = 3 := by bv_omega
  all_goals rfl

/-- The flags are read into the operation's booleans without loss (R76, R80). -/
theorem flags_of_assemble {o : Opcode} {f : Byte} {ws : List Word} {i : Instr} (h : assemble o f ws = some i)
    (hf : f.toNat ≤ o.flagMask.toNat) : i.flags = f := by
  obtain ⟨rfl, rfl⟩ := assemble_some h
  cases i
  case buildProfile | pushEdge | decode =>
    cases h
    exact flagByte_of_le_one hf
  case configure =>
    cases h
    exact flagByte_of_le_three hf
  all_goals exact (BitVec.eq_of_toNat_eq (Nat.le_zero.1 hf)).symm

theorem flagByte_getLsbD_zero (a b : Bool) : (flagByte a b).getLsbD 0 = a := flagByte_bit0 a b

theorem flagByte_getLsbD_one (a b : Bool) : (flagByte a b).getLsbD 1 = b := flagByte_bit1 a b

/-- The operation's own flags and words assemble to it (R73, R76). -/
theorem assemble_encoded (i : Instr) : assemble i.opcode i.flags i.operands = some i := by
  cases i <;> simp only [assemble, Instr.opcode, Instr.flags, Instr.operands, flagByte_getLsbD_zero,
    flagByte_getLsbD_one]

/-! ### Both directions -/

theorem decode_encode (i : Instr) : decode (encode i) = .ok i := by
  have ho : Opcode.ofByte? (headerOpcode (encode i).header) = some i.opcode := by
    rw [encode, headerOpcode_header, Opcode.ofByte?_code]
  have hf : headerFlags (encode i).header = i.flags := headerFlags_header _ _
  refine decode_of_fields ho (headerZero_header _ _) ?_ ?_
  · rw [hf]
    exact (reservedFlags_eq_zero_iff _).2 (flags_le_flagMask i)
  · rw [hf]
    exact assemble_encoded i

/-- What decodes is the opcode, flags and words that stand in the packet (R71, R73, R76). -/
theorem fields_of_decode {p : Packet} {i : Instr} (h : decode p = .ok i) :
    p.header = header i.opcode i.flags ∧ p.operands = i.operands := by
  obtain ⟨o, ho, hz, hf, hi⟩ := decode_ok h
  have hflags : i.flags = headerFlags p.header := flags_of_assemble hi ((reservedFlags_eq_zero_iff o).1 hf)
  obtain ⟨rfl, hws⟩ := assemble_some hi
  rw [hflags]
  exact ⟨eq_header_of_fields (Opcode.code_of_ofByte? ho) hz, hws.symm⟩

/-- Settles O2: a packet that decodes has the fields the encoder writes, and those decode to the operation they
were written for (R71 to R77). -/
theorem decodeInvertsEncode : Obligations.DecodeInvertsEncode := by
  intro p i
  constructor
  · intro h
    obtain ⟨hheader, hoperands⟩ := fields_of_decode h
    rw [encode, ← hheader, ← hoperands]
  · rintro rfl
    exact decode_encode i

/-- Settles O4: the header alone decides which opcode a packet fits, the words only by their number; the
operation then carries the header's opcode and flags and the given words (R77 to R79). -/
theorem operandWordsNeverMakeACommandIllegal : Obligations.OperandWordsNeverMakeACommandIllegal := by
  intro h ws ws' i hd hlen
  obtain ⟨o, ho, hz, hf, hl⟩ := decode_isOk_iff_fitsOpcode.1 ⟨i, hd⟩
  obtain ⟨i', hd'⟩ : ∃ i', decode ⟨h, ws'⟩ = .ok i' :=
    decode_isOk_iff_fitsOpcode.2 ⟨o, ho, hz, hf, hlen.trans hl⟩
  obtain ⟨hheader, -⟩ := fields_of_decode hd
  obtain ⟨hheader', hoperands'⟩ := fields_of_decode hd'
  have hsame : header i'.opcode i'.flags = header i.opcode i.flags := hheader'.symm.trans hheader
  have hopcode : i'.opcode.code = i.opcode.code := by
    simpa only [headerOpcode_header] using congrArg headerOpcode hsame
  have hflags : i'.flags = i.flags := by
    simpa only [headerFlags_header] using congrArg headerFlags hsame
  have hcode : some i'.opcode = some i.opcode := by
    rw [← Opcode.ofByte?_code, hopcode, Opcode.ofByte?_code]
  exact ⟨i', hd', hoperands'.symm, Option.some.inj hcode, hflags⟩

/-- Settles O1: each packet is computed by the decoder (R71 to R73, R76, R77). -/
theorem decodeReadsTheSpecsWords : Obligations.DecodeReadsTheSpecsWords := by
  unfold Obligations.DecodeReadsTheSpecsWords
  decide

end Sys2Proof.Proofs
end

section
/-! An operation taken apart (`10_state.md` R20, `30_encoding.md` R75): what it writes in the registers and slots, and
what it answers, both from the state it starts in. `exec_next_iff` ties the two to `exec`. -/

namespace Sys2Proof.Proofs
open Sys2Proof.Machine

/-! ### The two parts -/

/-- What the operation leaves in the registers and the slots, its response aside. -/
def written (i : Instr) (s : State) : State :=
  match i with
  | .buildProfile dt t1 t2 t3 ru tol => s.setProf (buildProfile ⟨t1, t2, t3, ru⟩ (effectiveTolerance dt tol))
  | .setGapTolerance g => s.setGapTolerance g
  | .configure ovr spl bc lo hi sk oc =>
    ((s.setCfg ⟨bc, lo, hi, sk, spl⟩).setCapacity
      (effectiveCapacity (requestedCapacity ovr bc oc) s.capMax)).emptyBuffer
  | .pushEdge hi d =>
    if s.count < s.capacity then
      (s.setEdge (s.edge.write s.count.toNat (pack (pushedEdge hi d)))).setCount (s.count + 1)
    else s.setsFinished
  | .finish => s.setsFinished
  | .bufReset => s.emptyBuffer
  | .getProfile | .edgeCount | .isFinished | .bufferCapacity | .getRawEdges _ _ | .getConfig | .decode _ _ => s

/-- The response of an operation that ends with status `OK`. -/
def okResponse (results : List Word) (payload : Payload) : Response := ⟨Status.ok.word, results, payload⟩

/-- The response that carries a decoder result: the bytes with their number, or the error's status alone. -/
def decodeResponse : DecodeResult → Response
  | .ok bytes => okResponse [BitVec.ofNat 32 bytes.length] (.bytes bytes)
  | .err e => ⟨e.status.word, [], .none⟩

/-- What the operation answers, or the fault of its access to the edge store. -/
def reply (i : Instr) (s : State) : Except Fault Response :=
  match i with
  | .buildProfile dt t1 t2 t3 ru tol =>
    .ok (okResponse (buildProfile ⟨t1, t2, t3, ru⟩ (effectiveTolerance dt tol)).words .none)
  | .getProfile => .ok (okResponse s.prof.words .none)
  | .setGapTolerance _ | .configure _ _ _ _ _ _ _ | .finish | .bufReset => .ok (okResponse [] .none)
  | .pushEdge hi d =>
    if s.count < s.capacity then
      (memWrite s.edge s.capMax s.count.toNat (pack (pushedEdge hi d))).map fun _ => okResponse [1] .none
    else .ok (okResponse [0] .none)
  | .edgeCount => .ok (okResponse [s.count] .none)
  | .isFinished => .ok (okResponse [boolWord s.finished] .none)
  | .bufferCapacity => .ok (okResponse [s.capacity] .none)
  | .getRawEdges n off =>
    (memRead s.edge s.capMax off.toNat (copiedEdges s.count n off)).map fun ws =>
      okResponse [BitVec.ofNat 32 (copiedEdges s.count n off)] (.edges ws)
  | .getConfig => .ok (okResponse s.cfg.words .none)
  | .decode spl n =>
    (memRead s.edge s.capMax 0 s.count.toNat).map fun ws =>
      decodeResponse (decodeEdges (ws.map unpack) s.prof spl n)

/-! ### Tied to the meanings -/

theorem next_iff_of_answers {i : Instr} {s t : State} {r : Response}
    (hexec : exec i s = .next ((written i s).respond r)) (hreply : reply i s = .ok r) :
    exec i s = .next t ↔ ∃ r, reply i s = .ok r ∧ t = (written i s).respond r := by
  rw [hexec, hreply]
  constructor
  · intro h
    cases h
    exact ⟨r, rfl, rfl⟩
  · rintro ⟨_, h, rfl⟩
    cases h
    rfl

theorem next_iff_of_faults {i : Instr} {s t : State} {f : Fault}
    (hexec : exec i s = .fault f) (hreply : reply i s = .error f) :
    exec i s = .next t ↔ ∃ r, reply i s = .ok r ∧ t = (written i s).respond r := by
  simp [hexec, hreply]

/-- An operation answers a next state exactly when its accesses to the edge store do, and that state is what it
has written with its one response added. -/
theorem exec_next_iff {i : Instr} {s t : State} :
    exec i s = .next t ↔ ∃ r, reply i s = .ok r ∧ t = (written i s).respond r := by
  cases i
  case pushEdge hi d =>
    by_cases hroom : s.count < s.capacity
    · cases hm : memWrite s.edge s.capMax s.count.toNat (pack (pushedEdge hi d)) with
      | error f =>
        refine next_iff_of_faults (f := f) ?_ ?_
        · simp [exec, execPushEdge, State.hasRoom, hroom, hm]
        · simp [reply, hroom, hm, Except.map]
      | ok m =>
        obtain ⟨hslot, -⟩ := memWrite_ok hm
        refine next_iff_of_answers (r := okResponse [1] .none) ?_ ?_
        · rw [exec_pushEdge_room hi d hroom hslot, written, if_pos hroom]
          rfl
        · simp [reply, hroom, hm, Except.map]
    · refine next_iff_of_answers (r := okResponse [0] .none) ?_ ?_
      · rw [exec_pushEdge_full hi d hroom, written, if_neg hroom]
        rfl
      · simp [reply, hroom]
  case getRawEdges n off =>
    cases hm : memRead s.edge s.capMax off.toNat (copiedEdges s.count n off) with
    | error f =>
      refine next_iff_of_faults (f := f) ?_ ?_
      · simp [exec, execGetRawEdges, hm]
      · simp [reply, hm, Except.map]
    | ok ws =>
      refine next_iff_of_answers (exec_getRawEdges_of_memRead hm) ?_
      simp [reply, hm, Except.map, okResponse]
  case decode spl n =>
    cases hm : memRead s.edge s.capMax 0 s.count.toNat with
    | error f =>
      refine next_iff_of_faults (f := f) ?_ ?_
      · simp [exec, execDecode, hm]
      · simp [reply, hm, Except.map]
    | ok ws =>
      refine next_iff_of_answers (r := decodeResponse (decodeEdges (ws.map unpack) s.prof spl n)) ?_ ?_
      · simp only [exec, execDecode, hm]
        cases decodeEdges (ws.map unpack) s.prof spl n <;> rfl
      · simp [reply, hm, Except.map]
  all_goals exact next_iff_of_answers rfl rfl

/-! ### Rules for what is written -/

theorem written_pushEdge_room {s : State} (hi : Bool) (d : Word) (h : s.count < s.capacity) :
    written (.pushEdge hi d) s =
      (s.setEdge (s.edge.write s.count.toNat (pack (pushedEdge hi d)))).setCount (s.count + 1) :=
  if_pos h

theorem written_pushEdge_full {s : State} (hi : Bool) (d : Word) (h : ¬ s.count < s.capacity) :
    written (.pushEdge hi d) s = s.setFinished true :=
  if_neg h

/-- No operation writes the streams; its response is added apart (log entries 1 and 2). -/
theorem written_keeps_streams (i : Instr) (s : State) :
    (written i s).inbox = s.inbox ∧ (written i s).responses = s.responses := by
  cases i
  case pushEdge hi d =>
    by_cases hroom : s.count < s.capacity
    · rw [written_pushEdge_room hi d hroom]
      exact ⟨rfl, rfl⟩
    · rw [written_pushEdge_full hi d hroom]
      exact ⟨rfl, rfl⟩
  all_goals exact ⟨rfl, rfl⟩

@[simp] theorem written_inbox (i : Instr) (s : State) : (written i s).inbox = s.inbox :=
  (written_keeps_streams i s).1

@[simp] theorem written_responses (i : Instr) (s : State) : (written i s).responses = s.responses :=
  (written_keeps_streams i s).2

end Sys2Proof.Proofs
end

section
/-! The windows of a built profile (`40_profile_builder.md` R101, R102): each contains the value it is built around,
and grows with the tolerance. -/

namespace Sys2Proof.Proofs
open Sys2Proof.Machine

theorem windowMin_le (v tol : Word) : windowMin v tol ≤ v := by
  rw [BitVec.le_def, windowMin, clampSub_toNat]
  omega

theorem le_windowMax (v tol : Word) : v ≤ windowMax v tol := by
  rw [BitVec.le_def, windowMax, satAdd_toNat]
  omega

theorem windowMin_le_windowMax (v tol : Word) : windowMin v tol ≤ windowMax v tol :=
  BitVec.le_trans (windowMin_le v tol) (le_windowMax v tol)

theorem windowsOrdered_buildProfile (n : Nominal) (tol : Word) : (buildProfile n tol).windowsOrdered :=
  ⟨windowMin_le_windowMax _ tol, windowMin_le_windowMax _ tol, windowMin_le_windowMax _ tol,
    windowMin_le_windowMax _ tol⟩

/-- A duration in a window stays in it under a larger tolerance. -/
theorem inWindow_of_tolerance_le {v tol tol' : Word} (h : tol ≤ tol') {d : Duration}
    (hd : inWindow (windowMin v tol) (windowMax v tol) d = true) :
    inWindow (windowMin v tol') (windowMax v tol') d = true := by
  have h := BitVec.le_def.1 h
  simp only [inWindow_iff, windowMin, windowMax, clampSub_toNat, satAdd_toNat] at hd ⊢
  omega

/-- Settles O11: each window is ordered around its nominal value, and both durations of a pair stay in their
windows under a larger tolerance (R26, R101, R102). -/
theorem builtWindowsContainTheirNominal : Obligations.BuiltWindowsContainTheirNominal := by
  intro n tol P
  have hcontains (v : Word) : windowMin v tol ≤ v ∧ v ≤ windowMax v tol := ⟨windowMin_le v tol, le_windowMax v tol⟩
  refine ⟨windowsOrdered_buildProfile n tol, rfl, hcontains _, hcontains _, hcontains _, hcontains _, ?_⟩
  intro tol' h l htol
  simp only [matchesBit0, matchesBit1, Bool.and_eq_true]
  exact ⟨And.imp (inWindow_of_tolerance_le htol) (inWindow_of_tolerance_le htol),
    And.imp (inWindow_of_tolerance_le htol) (inWindow_of_tolerance_le htol)⟩

end Sys2Proof.Proofs
end

section
/-! The invariant (`10_state.md` R21, R26, R27; `41_capture_buffer.md` R120): what each operation writes keeps it, it
lets every access to the edge store succeed, and so every event but two commands at once has a next state. -/

namespace Sys2Proof.Proofs
open Sys2Proof.Machine

/-! ### What keeps it -/

theorem zero_le_word (w : Word) : 0 ≤ w := BitVec.le_def.2 (Nat.zero_le _)

theorem Inv_respond {s : State} (h : s.Inv) (r : Response) : (s.respond r).Inv := h

theorem Inv_setInbox {s : State} (h : s.Inv) (q : List Event) : (s.setInbox q).Inv := h

/-- An empty buffer has no slot to be in order; only its capacity and the profile matter. -/
theorem Inv_of_empty {s : State} (hcount : s.count = 0) (hedge : s.edge = []) (hcap : s.capacity ≤ s.capMax)
    (hprof : s.prof.windowsOrdered) : s.Inv := by
  refine ⟨⟨?_, hcap, ?_⟩, hprof, ?_⟩
  · rw [hcount]
    exact zero_le_word _
  · rw [hcount, hedge]
    rfl
  · rw [hedge]
    exact Memory.wf_nil

theorem Inv_hardwareReset (s : State) : s.hardwareReset.Inv :=
  Inv_of_empty rfl rfl (zero_le_word _) windowsOrdered_zero

/-- An accepted push lists slot `COUNT` behind the others (R54, R124). -/
theorem Inv_append {s : State} (h : s.Inv) (hroom : s.count < s.capacity) (w : Word) :
    ((s.setEdge (s.edge.write s.count.toNat w)).setCount (s.count + 1)).Inv := by
  obtain ⟨hbuf, hprof, hwf⟩ := h
  obtain ⟨hcount, hcap, hslots⟩ := hbuf
  refine ⟨⟨?_, hcap, ?_⟩, hprof, Memory.wf_write hwf _ w⟩
  · show s.count + 1 ≤ s.capacity
    bv_omega
  · show (s.edge.write s.count.toNat w).map Prod.fst = List.range (s.count + 1).toNat
    rw [State.bufferInv.write_next ⟨hcount, hcap, hslots⟩, List.map_append, hslots,
      toNat_add_one_of_lt hroom, List.range_succ]
    rfl

theorem Inv_written {s : State} (h : s.Inv) (i : Instr) : (written i s).Inv := by
  obtain ⟨hbuf, hprof, hwf⟩ := h
  cases i
  case buildProfile => exact ⟨hbuf, windowsOrdered_buildProfile _ _, hwf⟩
  case configure => exact Inv_of_empty rfl rfl (effectiveCapacity_le _ _) hprof
  case bufReset =>
    obtain ⟨-, hcap, -⟩ := hbuf
    exact Inv_of_empty rfl rfl hcap hprof
  case pushEdge hi d =>
    by_cases hroom : s.count < s.capacity
    · rw [written_pushEdge_room hi d hroom]
      exact Inv_append ⟨hbuf, hprof, hwf⟩ hroom _
    · rw [written_pushEdge_full hi d hroom]
      exact ⟨hbuf, hprof, hwf⟩
  all_goals exact ⟨hbuf, hprof, hwf⟩

/-- Settles O51: an operation keeps the invariant by what it writes, a hardware reset establishes it, and the
other steps touch no register and no slot (R26, R120). -/
theorem everyStepKeepsTheInvariant : Obligations.EveryStepKeepsTheInvariant := by
  intro s t hinv h
  obtain ⟨-, rfl⟩ | ⟨p, rest, i, -, -, hi⟩ | ⟨p, rest, e, -, -, rfl⟩ | ⟨rest, -, rfl⟩ := step_cases h
  · exact hinv
  · obtain ⟨r, -, rfl⟩ := exec_next_iff.1 hi
    exact Inv_respond (Inv_written (Inv_setInbox hinv rest) i) r
  · exact Inv_respond (Inv_setInbox hinv rest) _
  · exact Inv_hardwareReset _

/-- Settles O52: the reset state is an empty buffer of capacity 0 with the zero profile (R31). -/
theorem invariantHoldsAtReset : Obligations.InvariantHoldsAtReset :=
  Inv_of_empty rfl rfl (zero_le_word _) windowsOrdered_zero

/-! ### What it gives -/

/-- With room, slot `COUNT` is one of the store's (R120). -/
theorem count_lt_capMax_of_room {s : State} (h : s.bufferInv) (hroom : s.count < s.capacity) :
    s.count.toNat < s.capMax.toNat := by
  obtain ⟨-, hcap, -⟩ := h
  exact Nat.lt_of_lt_of_le (BitVec.lt_def.1 hroom) (BitVec.le_def.1 hcap)

theorem reply_ok_of_inv {s : State} (h : s.Inv) (i : Instr) : ∃ r, reply i s = .ok r := by
  obtain ⟨hbuf, -, -⟩ := h
  cases i
  case pushEdge hi d =>
    by_cases hroom : s.count < s.capacity
    · have hslot := count_lt_capMax_of_room hbuf hroom
      exact ⟨_, by rw [reply, if_pos hroom, memWrite_inside _ _ hslot]; rfl⟩
    · exact ⟨_, by rw [reply, if_neg hroom]⟩
  case getRawEdges n off =>
    obtain ⟨ws, hws⟩ := memRead_copiedEdges hbuf n off
    exact ⟨_, by rw [reply, hws]; rfl⟩
  case decode spl n => exact ⟨_, by rw [reply, hbuf.memRead_all]; rfl⟩
  all_goals exact ⟨_, rfl⟩

/-- Settles O53: a command either runs, and its accesses succeed under the invariant, or is answered as illegal;
both ways with one response (R55, R56, R70, R77). -/
theorem everyCommandGetsOneResponse : Obligations.EveryCommandGetsOneResponse := by
  intro s p rest hinv hs
  cases hd : decode p with
  | error e => exact ⟨_, _, step_illegal hs hd, rfl, rfl⟩
  | ok i =>
    obtain ⟨r, hr⟩ := reply_ok_of_inv (Inv_setInbox hinv rest) i
    refine ⟨_, r, (step_legal hs hd).trans (exec_next_iff.2 ⟨r, hr, rfl⟩), written_inbox i _, ?_⟩
    rw [State.respond_responses, written_responses]
    rfl

end Sys2Proof.Proofs
end

section
/-! Frames (`10_state.md` R20 to R27): which registers and slots an operation writes, read off from `written`, and
what that says of one step. -/

namespace Sys2Proof.Proofs
open Sys2Proof.Machine Sys2Proof.Claims

/-! ### What an operation writes -/

/-- Settles O24: the operations that write are taken one by one, an accepted push apart from a rejected one; the
others leave every register and slot (R20). -/
theorem operationsWriteOnlyTheirRegisters : Obligations.OperationsWriteOnlyTheirRegisters := by
  intro i s t h
  obtain ⟨r, -, rfl⟩ := exec_next_iff.1 h
  cases i
  case buildProfile =>
    exact ⟨.inr (.inl rfl), .inl rfl, .inl rfl, .inl rfl, .inl rfl, fun _ => .inl rfl, rfl, rfl⟩
  case setGapTolerance =>
    exact ⟨.inr (.inr rfl), .inl rfl, .inl rfl, .inl rfl, .inl rfl, fun _ => .inl rfl, rfl, rfl⟩
  case configure =>
    exact ⟨.inl rfl, .inr rfl, .inr rfl, .inr (.inl rfl), .inr (.inl rfl), fun _ => .inr (.inl rfl), rfl, rfl⟩
  case bufReset =>
    exact ⟨.inl rfl, .inl rfl, .inl rfl, .inr (.inr (.inl rfl)), .inr (.inr (.inl rfl)),
      fun _ => .inr (.inr (.inl rfl)), rfl, rfl⟩
  case finish =>
    exact ⟨.inl rfl, .inl rfl, .inl rfl, .inl rfl, .inr (.inr (.inr (.inl rfl))), fun _ => .inl rfl, rfl, rfl⟩
  case pushEdge hi d =>
    by_cases hroom : s.count < s.capacity
    · rw [written_pushEdge_room hi d hroom]
      refine ⟨.inl rfl, .inl rfl, .inl rfl, .inr (.inr (.inr ⟨rfl, hroom⟩)), .inl rfl, fun a => ?_, rfl, rfl⟩
      by_cases ha : a = s.count.toNat
      · exact .inr (.inr (.inr ⟨rfl, hroom, ha⟩))
      · exact .inl (Memory.read_write_other _ _ ha)
    · rw [written_pushEdge_full hi d hroom]
      exact ⟨.inl rfl, .inl rfl, .inl rfl, .inl rfl, .inr (.inr (.inr (.inr ⟨rfl, hroom⟩))),
        fun _ => .inl rfl, rfl, rfl⟩
  all_goals exact ⟨.inl rfl, .inl rfl, .inl rfl, .inl rfl, .inl rfl, fun _ => .inl rfl, rfl, rfl⟩

/-- Settles O25: a reading operation writes nothing, so only its response is added (R105, R130 to R134, R151). -/
theorem observersChangeNothing : Obligations.ObserversChangeNothing := by
  intro i s t hop h
  obtain ⟨r, -, rfl⟩ := exec_next_iff.1 h
  cases i
  case getProfile | edgeCount | isFinished | bufferCapacity | getRawEdges | getConfig | decode => exact ⟨r, rfl⟩
  all_goals simp [Instr.opcode] at hop

theorem written_count (i : Instr) (s : State) :
    (written i s).count = s.count ∨
      ((written i s).count = 0 ∧ (i.opcode = .configure ∨ i.opcode = .bufReset)) ∨
      ((written i s).count.toNat = s.count.toNat + 1 ∧ s.count < s.capacity ∧ ∃ hi d, i = .pushEdge hi d) := by
  cases i
  case configure => exact .inr (.inl ⟨rfl, .inl rfl⟩)
  case bufReset => exact .inr (.inl ⟨rfl, .inr rfl⟩)
  case pushEdge hi d =>
    by_cases hroom : s.count < s.capacity
    · rw [written_pushEdge_room hi d hroom]
      exact .inr (.inr ⟨toNat_add_one_of_lt hroom, hroom, hi, d, rfl⟩)
    · rw [written_pushEdge_full hi d hroom]
      exact .inl rfl
  all_goals exact .inl rfl

/-! ### What a step changes -/

/-- Settles O28: only an operation changes `COUNT` in ways that `written_count` lists, and a hardware reset clears
it (R21). -/
theorem countGrowsByOneOrClears : Obligations.CountGrowsByOneOrClears := by
  intro s t _ h
  obtain ⟨-, rfl⟩ | ⟨p, rest, i, hs, hd, hi⟩ | ⟨p, rest, e, -, -, rfl⟩ | ⟨rest, hs, rfl⟩ := step_cases h
  · exact .inl rfl
  · have hpres : Presents s i := ⟨p, rest, hs, hd⟩
    obtain ⟨r, -, rfl⟩ := exec_next_iff.1 hi
    obtain hkept | ⟨hzero, hop⟩ | ⟨hgrown, hroom, level, d, rfl⟩ := written_count i (s.setInbox rest)
    · exact .inl hkept
    · exact .inr (.inl ⟨hzero, .inr ⟨i, hpres, hop⟩⟩)
    · exact .inr (.inr ⟨hgrown, hroom, level, d, hpres⟩)
  · exact .inl rfl
  · exact .inr (.inl ⟨rfl, .inl ⟨rest, hs⟩⟩)

/-- Settles O26: `COUNT` can only grow unless the edges are discarded, and the one slot a push writes is not below
it (R27, R54). -/
theorem storedEdgesAreImmutable : Obligations.StoredEdgesAreImmutable := by
  intro s t hinv h hclear
  have hcount : s.count ≤ t.count := by
    obtain hkept | ⟨-, hcleared⟩ | ⟨hgrown, -⟩ := countGrowsByOneOrClears s t hinv h
    · exact BitVec.le_of_eq hkept.symm
    · exact absurd hcleared hclear
    · rw [BitVec.le_def, hgrown]
      omega
  refine ⟨hcount, fun a ha => ?_⟩
  obtain ⟨-, rfl⟩ | ⟨p, rest, i, hs, hd, hi⟩ | ⟨p, rest, e, -, -, rfl⟩ | ⟨rest, hs, rfl⟩ := step_cases h
  · rfl
  · have hop (hop : i.opcode = .configure ∨ i.opcode = .bufReset) : False :=
      hclear (.inr ⟨i, ⟨p, rest, hs, hd⟩, hop⟩)
    obtain ⟨-, -, -, -, -, hslots, -, -⟩ := operationsWriteOnlyTheirRegisters i _ t hi
    obtain hkept | hconf | hreset | ⟨-, -, hslot⟩ := hslots a
    · exact hkept
    · exact (hop (.inl hconf)).elim
    · exact (hop (.inr hreset)).elim
    · exact absurd hslot (Nat.ne_of_lt ha)
  · rfl
  · exact absurd (.inl ⟨rest, hs⟩) hclear

theorem finishedAfter_of_presents {s : State} {p : Packet} {rest : List Event} {i : Instr}
    (hs : s.inbox = .command p :: rest) (hd : decode p = .ok i) :
    finishedAfter s = (written i (s.setInbox rest)).finished := by
  simp only [finishedAfter, hs, hd]
  cases i
  case pushEdge hi d =>
    by_cases hroom : s.count < s.capacity
    · rw [written_pushEdge_room (s := s.setInbox rest) hi d hroom]
      simp [Instr.opcode, hroom]
    · rw [written_pushEdge_full (s := s.setInbox rest) hi d hroom]
      simp [Instr.opcode, hroom]
  all_goals rfl

/-- Settles O27: an operation leaves what its writing gives the flag, a hardware reset clears it, the other steps
keep it; the output is the flag (R23, R189). -/
theorem finishedFollowsItsRule : Obligations.FinishedFollowsItsRule := by
  intro s t h
  refine ⟨?_, t.finishedOutput_eq⟩
  obtain ⟨hs, rfl⟩ | ⟨p, rest, i, hs, hd, hi⟩ | ⟨p, rest, e, hs, hd, rfl⟩ | ⟨rest, hs, rfl⟩ := step_cases h
  · simp [finishedAfter, hs]
  · obtain ⟨r, -, rfl⟩ := exec_next_iff.1 hi
    exact (finishedAfter_of_presents hs hd).symm
  · simp [finishedAfter, hs, hd]
  · simp [finishedAfter, hs]

/-! ### A buffer of capacity 0 -/

/-- Settles O23: with `CAPACITY` 0 there is no room, and the invariant leaves no edge (R126, R133, R152). -/
theorem capacityZeroAcceptsNothing : Obligations.CapacityZeroAcceptsNothing := by
  intro s hinv hcap
  obtain ⟨hle, -, -⟩ := hinv
  have hroom : ¬ s.count < s.capacity := by
    rw [hcap]
    exact BitVec.not_lt_zero
  have hcount : s.count = 0 := by
    rw [hcap] at hle
    exact BitVec.le_zero_iff.1 hle
  exact ⟨fun hi d => exec_pushEdge_full hi d hroom, exec_getRawEdges_empty hcount,
    fun spl n => exec_decode_empty spl n hcount⟩

end Sys2Proof.Proofs
end

section
/-! What an operation answers, and from what: a change of the stored policy, of `FINISHED` or of the earlier responses
passes through it with the same response, whose shape is the operation's own (R75). -/

namespace Sys2Proof.Proofs
open Sys2Proof.Machine Sys2Proof.Claims

/-- A change `f` of the state passes through an operation that answers alike and whose writing becomes that on
the changed state by the change `g`. -/
theorem exec_of_change {i : Instr} {s t : State} {f g : State → State} (h : exec i s = .next t)
    (hreply : reply i (f s) = reply i s) (hwritten : written i (f s) = g (written i s))
    (hresp : ∀ u r, (g u).respond r = g (u.respond r)) : exec i (f s) = .next (g t) := by
  obtain ⟨r, hr, rfl⟩ := exec_next_iff.1 h
  exact exec_next_iff.2 ⟨r, hreply.trans hr, by rw [hwritten, hresp]⟩

/-! ### The stored policy -/

theorem reply_setCfg {i : Instr} (hi : i.opcode ≠ .getConfig) (s : State) (c : RxConfig) :
    reply i (s.setCfg c) = reply i s := by
  cases i
  case getConfig => exact absurd rfl hi
  all_goals rfl

theorem written_setCfg {i : Instr} (hop : i.opcode ≠ .configure) (s : State) (c : RxConfig) :
    written i (s.setCfg c) = (written i s).setCfg c := by
  cases i
  case configure => exact absurd rfl hop
  case pushEdge hi d =>
    by_cases hroom : s.count < s.capacity
    · rw [written_pushEdge_room hi d hroom, written_pushEdge_room (s := s.setCfg c) hi d hroom]
      rfl
    · rw [written_pushEdge_full hi d hroom, written_pushEdge_full (s := s.setCfg c) hi d hroom]
      rfl
  all_goals rfl

theorem written_configure_setCfg {i : Instr} (hi : i.opcode = .configure) (s : State) (c : RxConfig) :
    written i (s.setCfg c) = written i s := by
  cases i
  case configure => rfl
  all_goals cases hi

/-- Settles O29: only `GET_CONFIG` answers from the policy, and only `CONFIGURE` replaces it (R24). -/
theorem storedPolicyInfluencesNothing : Obligations.StoredPolicyInfluencesNothing := by
  intro i s t c hi h
  have hreply : reply i (s.setCfg c) = reply i s := reply_setCfg hi s c
  by_cases hconf : i.opcode = .configure
  · rw [if_pos hconf]
    exact exec_of_change (f := (State.setCfg · c)) (g := id) h hreply (written_configure_setCfg hconf s c)
      fun _ _ => rfl
  · rw [if_neg hconf]
    exact exec_of_change (f := (State.setCfg · c)) (g := (State.setCfg · c)) h hreply
      (written_setCfg hconf s c) fun _ _ => rfl

/-! ### `FINISHED` -/

theorem reply_setFinished {i : Instr} (hi : i.opcode ≠ .isFinished) (s : State) (b : Bool) :
    reply i (s.setFinished b) = reply i s := by
  cases i
  case isFinished => exact absurd rfl hi
  all_goals rfl

/-- The flag is kept or set to a value of the operation's own. -/
theorem written_setFinished (i : Instr) (s : State) (b : Bool) :
    ∃ b', written i (s.setFinished b) = (written i s).setFinished b' := by
  cases i
  case configure | bufReset => exact ⟨false, rfl⟩
  case finish => exact ⟨true, rfl⟩
  case pushEdge hi d =>
    by_cases hroom : s.count < s.capacity
    · rw [written_pushEdge_room hi d hroom, written_pushEdge_room (s := s.setFinished b) hi d hroom]
      exact ⟨b, rfl⟩
    · rw [written_pushEdge_full hi d hroom, written_pushEdge_full (s := s.setFinished b) hi d hroom]
      exact ⟨true, rfl⟩
  all_goals exact ⟨b, rfl⟩

/-- Settles O30: only `IS_FINISHED` answers from the flag, and no operation derives anything else from it (R23,
R127). -/
theorem finishedIsReadByIsFinishedOnly : Obligations.FinishedIsReadByIsFinishedOnly := by
  intro i s t b hi h
  obtain ⟨b', hb'⟩ := written_setFinished i s b
  exact ⟨t.setFinished b', exec_of_change (f := (State.setFinished · b)) (g := (State.setFinished · b')) h
    (reply_setFinished hi s b) hb' fun _ _ => rfl, rfl⟩

/-! ### The earlier responses -/

theorem reply_of_responses (i : Instr) (s : State) (rs : List Response) :
    reply i { s with responses := rs } = reply i s := by
  cases i <;> rfl

theorem written_of_responses (i : Instr) (s : State) (rs : List Response) :
    written i { s with responses := rs } = { written i s with responses := rs } := by
  cases i
  case pushEdge hi d =>
    by_cases hroom : s.count < s.capacity
    · rw [written_pushEdge_room hi d hroom, written_pushEdge_room (s := { s with responses := rs }) hi d hroom]
      rfl
    · rw [written_pushEdge_full hi d hroom, written_pushEdge_full (s := { s with responses := rs }) hi d hroom]
      rfl
  all_goals rfl

/-- Settles O31: an operation neither answers from the responses nor writes them, and the other events do not
look at them (R30). -/
theorem responsesAreNeverReadBack : Obligations.ResponsesAreNeverReadBack := by
  intro s t rs h
  let s' : State := { s with responses := rs }
  have hnew {u : State} {new : List Response} (ht : t.responses = s.responses ++ new) (hu : step s' = .next u)
      (htu : u = { t with responses := rs ++ new }) :
      step s' = .next { t with responses := rs ++ newResponses s t } := by
    rw [newResponses_of_append ht, hu, htu]
  obtain ⟨hs, rfl⟩ | ⟨p, rest, i, hs, hd, hi⟩ | ⟨p, rest, e, hs, hd, rfl⟩ | ⟨rest, hs, rfl⟩ := step_cases h
  · exact hnew (new := []) (List.append_nil _).symm (step_idle (s := s') hs) (by rw [List.append_nil])
  · obtain ⟨r, hr, rfl⟩ := exec_next_iff.1 hi
    have hexec : exec i (s'.setInbox rest) = .next ((written i (s'.setInbox rest)).respond r) :=
      exec_next_iff.2 ⟨r, (reply_of_responses i (s.setInbox rest) rs).trans hr, rfl⟩
    refine hnew (new := [r]) ?_ ((step_legal (s := s') hs hd).trans hexec) ?_
    · rw [State.respond_responses, written_responses, State.setInbox_responses]
    · exact congrArg (State.respond · r) (written_of_responses i (s.setInbox rest) rs)
  · exact hnew (new := [_]) rfl (step_illegal (s := s') hs hd) rfl
  · exact hnew (new := []) (List.append_nil _).symm (step_hardwareReset (s := s') hs) (by rw [List.append_nil]; rfl)

/-- Settles O45: `DECODE` writes nothing and does not read its own response, so it answers alike again (R151). -/
theorem repeatedDecodeAnswersAlike : Obligations.RepeatedDecodeAnswersAlike := by
  intro spl n s t h
  obtain ⟨r, hr, rfl⟩ := exec_next_iff.1 h
  exact ⟨r, rfl, exec_next_iff.2 ⟨r, hr, rfl⟩⟩

/-! ### The shape of a response -/

theorem map_eq_ok {α β ε : Type} {f : α → β} {x : Except ε α} {b : β} (h : x.map f = .ok b) :
    ∃ a, x = .ok a ∧ b = f a := by
  cases x with
  | error e => cases h
  | ok a =>
    cases h
    exact ⟨a, rfl, rfl⟩

theorem reply_pushEdge_ok {hi : Bool} {d : Word} {s : State} {r : Response}
    (h : reply (.pushEdge hi d) s = .ok r) : ∃ w, r = okResponse [w] .none := by
  by_cases hroom : s.count < s.capacity
  · rw [reply, if_pos hroom] at h
    obtain ⟨m, -, rfl⟩ := map_eq_ok h
    exact ⟨1, rfl⟩
  · rw [reply, if_neg hroom] at h
    cases h
    exact ⟨0, rfl⟩

/-- `R1` of `GET_RAW_EDGES` is the number of words that follow (R75, R133). -/
theorem reply_getRawEdges_ok {n off : Word} {s : State} {r : Response} (h : reply (.getRawEdges n off) s = .ok r) :
    ∃ ws, r = okResponse [BitVec.ofNat 32 ws.length] (.edges ws) := by
  obtain ⟨ws, hws, rfl⟩ := map_eq_ok h
  obtain ⟨hlen, -⟩ := memRead_ok hws
  exact ⟨ws, by rw [hlen]⟩

theorem reply_decode_ok {spl : Bool} {n : Word} {s : State} {r : Response} (h : reply (.decode spl n) s = .ok r) :
    ∃ result, r = decodeResponse result := by
  obtain ⟨ws, -, rfl⟩ := map_eq_ok h
  exact ⟨_, rfl⟩

theorem status_word_ne_zero (e : DecodeError) : e.status.word ≠ 0 := by
  cases e <;> decide

/-- Settles O50: each operation's answer is written with its number of words, those that read the edge store
announce their payload, and an error of the decoder has a nonzero status (R75, R79). -/
theorem responsesHaveTheirShape : Obligations.ResponsesHaveTheirShape := by
  intro i s t h
  obtain ⟨r, hr, rfl⟩ := exec_next_iff.1 h
  refine ⟨r, by rw [State.respond_responses, written_responses], fun hok => ?_⟩
  cases i
  case pushEdge hi d =>
    obtain ⟨w, rfl⟩ := reply_pushEdge_ok hr
    exact ⟨rfl, nofun, nofun⟩
  case getRawEdges n off =>
    obtain ⟨ws, rfl⟩ := reply_getRawEdges_ok hr
    exact ⟨rfl, rfl, rfl⟩
  case decode spl n =>
    obtain ⟨bs | e, rfl⟩ := reply_decode_ok hr
    · exact ⟨rfl, rfl, rfl⟩
    · exact absurd hok (status_word_ne_zero e)
  all_goals
    cases hr
    exact ⟨rfl, nofun, nofun⟩

end Sys2Proof.Proofs
end

section
/-! The comparator and the pair loop (`42_decoder.md` R154 to R161): the classes in natural numbers, what the loop
depends on, what it passes over, and how many edges a byte takes. -/

namespace Sys2Proof.Proofs
open Sys2Proof.Machine

/-! ### The comparator -/

theorem matchesBit0_iff {p : Profile} {h l : Duration} :
    matchesBit0 p h l = true ↔
      p.bit0HighMinNs.toNat ≤ h.toNat ∧ h.toNat ≤ p.bit0HighMaxNs.toNat ∧
        p.bit0LowMinNs.toNat ≤ l.toNat ∧ l.toNat ≤ p.bit0LowMaxNs.toNat := by
  rw [matchesBit0, Bool.and_eq_true, inWindow_iff, inWindow_iff, and_assoc]

theorem matchesBit1_iff {p : Profile} {h l : Duration} :
    matchesBit1 p h l = true ↔
      p.bit1HighMinNs.toNat ≤ h.toNat ∧ h.toNat ≤ p.bit1HighMaxNs.toNat ∧
        p.bit1LowMinNs.toNat ≤ l.toNat ∧ l.toNat ≤ p.bit1LowMaxNs.toNat := by
  rw [matchesBit1, Bool.and_eq_true, inWindow_iff, inWindow_iff, and_assoc]

/-- R156 on the three tests: each class is the first whose test holds. -/
theorem classify_iff (p : Profile) (h l : Duration) :
    (classify p h l = .bit0 ↔ matchesBit0 p h l = true) ∧
    (classify p h l = .bit1 ↔ ¬ matchesBit0 p h l = true ∧ matchesBit1 p h l = true) ∧
    (classify p h l = .gap ↔
      ¬ matchesBit0 p h l = true ∧ ¬ matchesBit1 p h l = true ∧ matchesGap p l = true) ∧
    (classify p h l = .stop ↔
      ¬ matchesBit0 p h l = true ∧ ¬ matchesBit1 p h l = true ∧ ¬ matchesGap p l = true) := by
  unfold classify
  cases matchesBit0 p h l
  · cases matchesBit1 p h l
    · cases matchesGap p l <;> simp
    · simp
  · simp

/-- Settles O33: the priority of the three tests, each written in natural numbers (R155 to R157). -/
theorem classifyFollowsWindowsThenGap : Obligations.ClassifyFollowsWindowsThenGap := by
  intro P h l
  have hclass := classify_iff P h l
  rwa [matchesBit0_iff, matchesBit1_iff, matchesGap_iff] at hclass

/-! ### The pair loop -/

/-- Two pairs of one class, before edges on which the loop goes alike. -/
theorem decodePairs_pair_congr {p : Profile} {x y x' y' : Edge} {l l' : List Edge}
    (hclass : classify p x.durationNs y.durationNs = classify p x'.durationNs y'.durationNs)
    (hl : ∀ a, decodePairs p l a = decodePairs p l' a) (a : Accumulator) :
    decodePairs p (x :: y :: l) a = decodePairs p (x' :: y' :: l') a := by
  cases hc : classify p x.durationNs y.durationNs with
  | stop => rw [decodePairs_stop hc, decodePairs_stop (hclass.symm.trans hc)]
  | gap => rw [decodePairs_gap hc, decodePairs_gap (hclass.symm.trans hc), hl]
  | bit0 => rw [decodePairs_bit0 hc, decodePairs_bit0 (hclass.symm.trans hc), hl]
  | bit1 => rw [decodePairs_bit1 hc, decodePairs_bit1 (hclass.symm.trans hc), hl]

/-- The loop looks at the durations only: with every polarity cleared it goes alike. -/
theorem decodePairs_of_durations (p : Profile) :
    ∀ (es : List Edge) (a : Accumulator),
      decodePairs p ((es.map Edge.durationNs).map (Edge.mk false)) a = decodePairs p es a
  | [], _ => rfl
  | [_], _ => rfl
  | _ :: _ :: rest, a => decodePairs_pair_congr rfl (decodePairs_of_durations p rest) a

/-- Settles O36: both lists decode as their common durations do (R154). -/
theorem pairRolesArePositional : Obligations.PairRolesArePositional := by
  intro P es es' a h
  rw [← decodePairs_of_durations, h, decodePairs_of_durations]

/-- Behind whole pairs, edges on which the loop goes alike can replace each other (R154). -/
theorem decodePairs_append_congr {p : Profile} {l l' : List Edge}
    (hl : ∀ a, decodePairs p l a = decodePairs p l' a) :
    ∀ (before : List Edge) (a : Accumulator), before.length % 2 = 0 →
      decodePairs p (before ++ l) a = decodePairs p (before ++ l') a
  | [], a, _ => hl a
  | [_], _, h => absurd h (by simp)
  | _ :: _ :: rest, a, h =>
    have heven : rest.length % 2 = 0 := by
      simp only [List.length_cons] at h
      omega
    decodePairs_pair_congr rfl (fun a => decodePairs_append_congr hl rest a heven) a

/-- Settles O39: such a pair is a gap, over which the loop goes with its accumulator kept; with gap tolerance 0 it
can only be a stop (R108, R157). -/
theorem gapPairsAreInvisible : Obligations.GapPairsAreInvisible := by
  intro P before x y after a heven hbit0 hbit1
  obtain ⟨-, -, hgap, hstop⟩ := classify_iff P x.durationNs y.durationNs
  rw [← Bool.not_eq_true] at hbit0 hbit1
  refine ⟨fun hmin hmax => ?_, fun hzero => hstop.2 ⟨hbit0, hbit1, fun hg => ?_⟩⟩
  · have hclass := hgap.2 ⟨hbit0, hbit1, matchesGap_iff.2 ⟨Nat.zero_lt_of_lt hmax, hmin, hmax⟩⟩
    exact decodePairs_append_congr (decodePairs_gap hclass after) before a heven
  · exact classify_ne_gap hzero _ _ (hgap.2 ⟨hbit0, hbit1, hg⟩)

/-! ### How many edges a byte takes -/

/-- The edges whose bits an accumulator holds: two for each bit. -/
def edgesHeld (a : Accumulator) : Nat := 16 * a.bytes.length + 2 * a.nbits

theorem edgesHeld_shiftIn (a : Accumulator) (b : Bool) : edgesHeld (a.shiftIn b) = edgesHeld a + 2 := by
  by_cases h : a.nbits + 1 = 8
  · rw [shiftIn_completes h]
    simp only [edgesHeld, List.length_append, List.length_singleton]
    omega
  · rw [shiftIn_waits h]
    simp only [edgesHeld]
    omega

theorem edgesHeld_decodePairs_le (p : Profile) :
    ∀ (es : List Edge) (a : Accumulator), edgesHeld (decodePairs p es a) ≤ edgesHeld a + es.length
  | [], _ => Nat.le_refl _
  | [_], _ => Nat.le_add_right _ _
  | x :: y :: rest, a => by
    have ih (a : Accumulator) := edgesHeld_decodePairs_le p rest a
    simp only [List.length_cons]
    cases hc : classify p x.durationNs y.durationNs with
    | stop =>
      rw [decodePairs_stop hc]
      omega
    | gap =>
      rw [decodePairs_gap hc]
      have := ih a
      omega
    | bit0 =>
      rw [decodePairs_bit0 hc]
      have := ih (a.shiftIn false)
      rw [edgesHeld_shiftIn] at this
      omega
    | bit1 =>
      rw [decodePairs_bit1 hc]
      have := ih (a.shiftIn true)
      rw [edgesHeld_shiftIn] at this
      omega

/-- Settles O43: the loop holds bits of at most the aligned edges, sixteen for each completed byte; alignment only
drops edges (R153, R162). -/
theorem eachByteTakesSixteenEdges : Obligations.EachByteTakesSixteenEdges := by
  intro es P spl
  refine ⟨?_, List.length_dropWhile_le _ es⟩
  have hheld := edgesHeld_decodePairs_le P (alignEdges spl es) .empty
  have hempty : edgesHeld .empty = 0 := rfl
  have hbytes : 16 * (decodedBytes es P spl).length ≤ edgesHeld (decodePairs P (alignEdges spl es) .empty) :=
    Nat.le_add_right _ _
  omega

/-- Settles O42: a success shows the input is not empty and what its bytes are; the size enters only by the
comparison with their number (R161). -/
theorem decodeIsMonotoneInOutputSize : Obligations.DecodeIsMonotoneInOutputSize := by
  intro es P spl n m bs h
  have hes : es ≠ [] := by
    rintro rfl
    cases h
  rw [decodeEdges_of_ne_nil hes] at h
  split at h
  · cases h
  · cases h
    refine ⟨decodeEdges_eq_ok hes rfl, fun hm => ?_⟩
    rw [decodeEdges_of_ne_nil hes, if_pos hm]

end Sys2Proof.Proofs
end
section
/-! One step on each kind of event (`20_memory.md` R57, `70_reset_and_hazards.md` R200). -/

namespace Sys2Proof.Proofs
open Sys2Proof.Machine

/-- Settles O5: taking the packet off the stream is the update `setInbox` (R57, R70). -/
theorem stepRunsTheDecodedCommand : Obligations.StepRunsTheDecodedCommand :=
  fun _ _ _ _ => step_legal

/-- Settles O8: the reset step takes the event and clears the block, and neither touches the streams' other
entries or the parameter (log entry 8). -/
theorem hardwareResetKeepsStreamsAndParameter : Obligations.HardwareResetKeepsStreamsAndParameter :=
  fun _ _ hs => ⟨_, step_hardwareReset hs, rfl, rfl, rfl⟩

/-- Settles O9: the step's branch for two packets at once (U4, log entry 7). -/
theorem overlappingCommandsAreRefused : Obligations.OverlappingCommandsAreRefused := by
  intro s p q rest hs
  simp [step, hs]

end Sys2Proof.Proofs
end

section
/-! The round trip (`42_decoder.md` section 8): under the profile built from their timing the nominal pulses of a bit
are a pair of that bit's class, so the pair loop shifts in the bits that were sent. -/

namespace Sys2Proof.Proofs
open Sys2Proof.Machine

/-! ### Nominal pulses -/

/-- A duration that fits 31 bits is stored as it is (R125). -/
theorem pushedEdge_durationNs_toNat (hi : Bool) {w : Word} (h : w.toNat < 2 ^ 31) :
    (pushedEdge hi w).durationNs.toNat = w.toNat := by
  rw [pushedEdge, saturateDuration_toNat]
  omega

theorem inWindow_around {v : Word} (h : v.toNat < 2 ^ 31) (hi : Bool) (tol : Word) :
    inWindow (windowMin v tol) (windowMax v tol) (pushedEdge hi v).durationNs = true := by
  rw [inWindow_iff, pushedEdge_durationNs_toNat hi h]
  exact ⟨BitVec.le_def.1 (windowMin_le v tol), BitVec.le_def.1 (le_windowMax v tol)⟩

theorem inWindow_above {v tol w : Word} (hw : w.toNat < 2 ^ 31) (h : v.toNat + tol.toNat < w.toNat) (hi : Bool) :
    inWindow (windowMin v tol) (windowMax v tol) (pushedEdge hi w).durationNs = false := by
  rw [← Bool.not_eq_true, inWindow_iff, pushedEdge_durationNs_toNat hi hw, windowMax, satAdd_toNat]
  omega

theorem classify_bit0Pulses {n : Nominal} (hhigh : n.t1Ns.toNat + n.t2Ns.toNat < 2 ^ 31)
    (hlow : n.t2Ns.toNat + n.t3Ns.toNat < 2 ^ 31) (tol : Word) :
    classify (buildProfile n tol) (pushedEdge true (bit0HighNominal n)).durationNs
      (pushedEdge false (bit0LowNominal n)).durationNs = .bit0 := by
  have hhigh0 : (bit0HighNominal n).toNat < 2 ^ 31 := Nat.lt_of_le_of_lt (Nat.le_add_right _ _) hhigh
  have hlow0 : (bit0LowNominal n).toNat < 2 ^ 31 := by
    rw [bit0LowNominal_toNat]
    omega
  obtain ⟨hbit0, -⟩ := classify_iff (buildProfile n tol) (pushedEdge true (bit0HighNominal n)).durationNs
    (pushedEdge false (bit0LowNominal n)).durationNs
  exact hbit0.2 (Bool.and_eq_true_iff.2 ⟨inWindow_around hhigh0 _ tol, inWindow_around hlow0 _ tol⟩)

/-- A tolerance below `t2` keeps the high pulse of bit 1 above the window of bit 0 (R100, R156). -/
theorem classify_bit1Pulses {n : Nominal} (hhigh : n.t1Ns.toNat + n.t2Ns.toNat < 2 ^ 31)
    (hlow : n.t2Ns.toNat + n.t3Ns.toNat < 2 ^ 31) {tol : Word} (htol : tol < n.t2Ns) :
    classify (buildProfile n tol) (pushedEdge true (bit1HighNominal n)).durationNs
      (pushedEdge false (bit1LowNominal n)).durationNs = .bit1 := by
  have htol := BitVec.lt_def.1 htol
  have hsum : (bit1HighNominal n).toNat = n.t1Ns.toNat + n.t2Ns.toNat := by
    rw [bit1HighNominal_toNat]
    omega
  have hhigh1 : (bit1HighNominal n).toNat < 2 ^ 31 := by omega
  have hlow1 : (bit1LowNominal n).toNat < 2 ^ 31 := Nat.lt_of_le_of_lt (Nat.le_add_left _ _) hlow
  have habove : (bit0HighNominal n).toNat + tol.toNat < (bit1HighNominal n).toNat := by
    rw [hsum]
    exact Nat.add_lt_add_left htol _
  obtain ⟨-, hbit1, -⟩ := classify_iff (buildProfile n tol) (pushedEdge true (bit1HighNominal n)).durationNs
    (pushedEdge false (bit1LowNominal n)).durationNs
  refine hbit1.2 ⟨fun hbit0 => ?_, Bool.and_eq_true_iff.2 ⟨inWindow_around hhigh1 _ tol, inWindow_around hlow1 _ tol⟩⟩
  obtain ⟨hin, -⟩ := Bool.and_eq_true_iff.1 hbit0
  exact Bool.false_ne_true ((inWindow_above hhigh1 habove true).symm.trans hin)

/-! ### Bits -/

theorem bytesEdges_eq_flatMap (n : Nominal) (bs : List Byte) :
    bytesEdges n bs = (bs.flatMap bitsMsbFirst).flatMap (bitEdges n) :=
  List.flatMap_assoc.symm

theorem length_bytesEdges (n : Nominal) (bs : List Byte) : (bytesEdges n bs).length = 16 * bs.length := by
  have hbit (b : Bool) : (bitEdges n b).length = 2 := by cases b <;> rfl
  have hbits (bits : List Bool) : (bits.flatMap (bitEdges n)).length = 2 * bits.length := by
    induction bits with
    | nil => rfl
    | cons b bits ih =>
      rw [List.flatMap_cons, List.length_append, hbit, ih, List.length_cons]
      omega
  rw [bytesEdges_eq_flatMap, hbits, length_flatMap_bitsMsbFirst]
  omega

theorem decodePairs_bitEdges {n : Nominal} {tol : Word} (hhigh : n.t1Ns.toNat + n.t2Ns.toNat < 2 ^ 31)
    (hlow : n.t2Ns.toNat + n.t3Ns.toNat < 2 ^ 31) (htol : tol < n.t2Ns) (bits : List Bool) (a : Accumulator) :
    decodePairs (buildProfile n tol) (bits.flatMap (bitEdges n)) a = bits.foldl Accumulator.shiftIn a := by
  induction bits generalizing a with
  | nil => rfl
  | cons b bits ih =>
    rw [List.flatMap_cons, List.foldl_cons, ← ih]
    cases b with
    | false => exact decodePairs_bit0 (classify_bit0Pulses hhigh hlow tol) _ a
    | true => exact decodePairs_bit1 (classify_bit1Pulses hhigh hlow htol) _ a

/-- The first pulse of a bit is high, so nothing is dropped before it (R83, R153). -/
theorem alignEdges_bitEdges (n : Nominal) (bits : List Bool) :
    alignEdges true (bits.flatMap (bitEdges n)) = bits.flatMap (bitEdges n) := by
  match bits with
  | [] => rfl
  | false :: _ => exact alignEdges_cons_match (e := pushedEdge true (bit0HighNominal n)) rfl _
  | true :: _ => exact alignEdges_cons_match (e := pushedEdge true (bit1HighNominal n)) rfl _

/-! ### Bytes from their bits -/

theorem bitsMsbFirst_injective : Function.Injective bitsMsbFirst := by
  intro b c h
  apply BitVec.eq_of_getLsbD_eq
  intro i hi
  have hbit := congrArg (·[7 - i]?) h
  simp only [getElem?_bitsMsbFirst _ (show 7 - i < 8 by omega), Option.some.injEq] at hbit
  rwa [show 7 - (7 - i) = i by omega] at hbit

theorem flatMap_bitsMsbFirst_inj :
    ∀ {bs cs : List Byte}, bs.flatMap bitsMsbFirst = cs.flatMap bitsMsbFirst → bs = cs
  | [], [], _ => rfl
  | b :: bs, c :: cs, h => by
    rw [List.flatMap_cons, List.flatMap_cons] at h
    obtain ⟨hhead, htail⟩ := List.append_inj h rfl
    rw [bitsMsbFirst_injective hhead, flatMap_bitsMsbFirst_inj htail]

/-- The bits of whole bytes, shifted into the empty accumulator, complete those bytes (R158). -/
theorem bytes_foldl_shiftIn (bs : List Byte) :
    ((bs.flatMap bitsMsbFirst).foldl Accumulator.shiftIn .empty).bytes = bs := by
  obtain ⟨hlt, hstored⟩ := storedBits_foldl_shiftIn (bs.flatMap bitsMsbFirst) (a := .empty) (by decide)
  generalize (bs.flatMap bitsMsbFirst).foldl Accumulator.shiftIn .empty = a at hlt hstored
  have hbits : a.bytes.flatMap bitsMsbFirst ++ lowBitsMsbFirst a.nbits a.acc = bs.flatMap bitsMsbFirst := hstored
  have hlen := congrArg List.length hbits
  rw [List.length_append, length_flatMap_bitsMsbFirst, length_flatMap_bitsMsbFirst,
    length_lowBitsMsbFirst] at hlen
  have hnone : a.nbits = 0 := by omega
  rw [hnone] at hbits
  exact flatMap_bitsMsbFirst_inj ((List.append_nil _).symm.trans hbits)

theorem decodedBytes_bytesEdges {n : Nominal} {tol : Word} (hhigh : n.t1Ns.toNat + n.t2Ns.toNat < 2 ^ 31)
    (hlow : n.t2Ns.toNat + n.t3Ns.toNat < 2 ^ 31) (htol : tol < n.t2Ns) (bs : List Byte) :
    decodedBytes (bytesEdges n bs) (buildProfile n tol) true = bs := by
  rw [bytesEdges_eq_flatMap, decodedBytes_of_aligned (alignEdges_bitEdges n _),
    decodePairs_bitEdges hhigh hlow htol, bytes_foldl_shiftIn]

theorem bytesEdges_ne_nil {bs : List Byte} (hbs : bs ≠ []) (n : Nominal) : bytesEdges n bs ≠ [] := by
  have hpos := List.length_pos_iff.2 hbs
  rw [← List.length_pos_iff, length_bytesEdges]
  omega

/-- Settles O46: the pulses are aligned at their first edge and the pair loop shifts in the bits of the bytes. -/
theorem nominalPulsesDecodeToTheirBytes : Obligations.NominalPulsesDecodeToTheirBytes := by
  intro n tol bs outLen htol hhigh hlow hbs hlen
  exact decodeEdges_eq_ok (bytesEdges_ne_nil hbs n) (decodedBytes_bytesEdges hhigh hlow htol bs) hlen

end Sys2Proof.Proofs
end

section
/-! The block on a command stream (`95_test_vectors.md` P2): each push that finds room appends its edge to the captured
ones, so a run over the pushes of bytes leaves their nominal pulses in the buffer for `DECODE`. -/

namespace Sys2Proof.Proofs
open Sys2Proof.Machine Sys2Proof.Claims

/-! ### Pulses -/

/-- A pulse, as the operands of the `PUSH_EDGE` that presents it: its level and its duration (R124). -/
abbrev Pulse := Bool × Word

def Pulse.push (q : Pulse) : Instr := .pushEdge q.1 q.2

def Pulse.edge (q : Pulse) : Edge := pushedEdge q.1 q.2

/-- The two pulses of a nominal bit (R83, R100). -/
def bitPulses (n : Nominal) (b : Bool) : List Pulse :=
  if b then [(true, bit1HighNominal n), (false, bit1LowNominal n)]
  else [(true, bit0HighNominal n), (false, bit0LowNominal n)]

def bytesPulses (n : Nominal) (bs : List Byte) : List Pulse := (bs.flatMap bitsMsbFirst).flatMap (bitPulses n)

theorem bytesPulses_map_edge (n : Nominal) (bs : List Byte) : (bytesPulses n bs).map Pulse.edge = bytesEdges n bs := by
  have hbit (b : Bool) : (bitPulses n b).map Pulse.edge = bitEdges n b := by cases b <;> rfl
  rw [bytesPulses, List.map_flatMap, bytesEdges_eq_flatMap]
  simp only [hbit]

theorem bytesPulses_map_push (n : Nominal) (bs : List Byte) :
    (bytesPulses n bs).map Pulse.push = bs.flatMap (pushByte n) := by
  have hbit (b : Bool) : (bitPulses n b).map Pulse.push = pushBit n b := by cases b <;> rfl
  rw [bytesPulses, List.map_flatMap, List.flatMap_assoc]
  simp only [hbit]
  rfl

theorem length_bytesPulses (n : Nominal) (bs : List Byte) : (bytesPulses n bs).length = 16 * bs.length := by
  rw [← length_bytesEdges n bs, ← bytesPulses_map_edge, List.length_map]

/-! ### A run over pushes -/

/-- What a run over pushes that find room leaves, with `rest` behind them in the stream: their edges captured
behind the others, in order. -/
structure Appended (s : State) (es : List Edge) (rest : List Event) (t : State) : Prop where
  inv : t.Inv
  count : t.count.toNat = s.count.toNat + es.length
  capacity : t.capacity = s.capacity
  prof : t.prof = s.prof
  captured : captured t = captured s ++ es
  inbox : t.inbox = rest

theorem Appended.trans {s t u : State} {es es' : List Edge} {rest rest' : List Event}
    (h : Appended s es rest t) (h' : Appended t es' rest' u) : Appended s (es ++ es') rest' u where
  inv := h'.inv
  count := by rw [h'.count, h.count, List.length_append, Nat.add_assoc]
  capacity := h'.capacity.trans h.capacity
  prof := h'.prof.trans h.prof
  captured := by rw [h'.captured, h.captured, List.append_assoc]
  inbox := h'.inbox

/-- The word of an accepted push stands behind the captured ones (R54, R120). -/
theorem captured_write_next {s : State} (h : s.bufferInv) (e : Edge) :
    ((s.edge.write s.count.toNat (pack e)).map Prod.snd).map unpack = captured s ++ [e] := by
  rw [h.write_next, List.map_append, List.map_append, captured]
  simp only [List.map_cons, List.map_nil, unpack_pack]

theorem step_push {s : State} {q : Pulse} {rest : List Event} (hinv : s.Inv)
    (hroom : s.count < s.capacity) (hs : s.inbox = .command (encode q.push) :: rest) :
    ∃ t, step s = .next t ∧ Appended s [q.edge] rest t := by
  have hbuf : s.bufferInv := hinv.1
  have hslot := count_lt_capMax_of_room hbuf hroom
  have hstep := (step_legal hs (decode_encode _)).trans
    (exec_pushEdge_room (s := s.setInbox rest) q.1 q.2 hroom hslot)
  exact ⟨_, hstep,
    { inv := everyStepKeepsTheInvariant s _ hinv hstep
      count := toNat_add_one_of_lt hroom
      capacity := rfl
      prof := rfl
      captured := captured_write_next hbuf q.edge
      inbox := rfl }⟩

theorem run_pushes {qs : List Pulse} {rest : List Event} {s : State} (hinv : s.Inv)
    (hroom : s.count.toNat + qs.length ≤ s.capacity.toNat)
    (hs : s.inbox = qs.map (fun q => Event.command (encode q.push)) ++ rest) :
    ∃ t : State, Host.Core.run Sys2Proof.core qs.length s = .next t ∧ Appended s (qs.map Pulse.edge) rest t := by
  induction qs generalizing s with
  | nil => exact ⟨s, rfl, hinv, rfl, rfl, rfl, (List.append_nil _).symm, hs⟩
  | cons q qs ih =>
    rw [List.length_cons] at hroom
    obtain ⟨u, hu, happ⟩ := step_push hinv (BitVec.lt_def.2 (by omega)) hs
    have hcount : u.count.toNat = s.count.toNat + 1 := happ.count
    obtain ⟨t, ht, happ'⟩ := ih happ.inv (by rw [happ.capacity]; omega) happ.inbox
    exact ⟨t, (core_run_next hu).trans ht, happ.trans happ'⟩

/-! ### The whole stream -/

theorem wf_of_bufferInv {s : State} (h : s.bufferInv) : s.edge.wf := by
  obtain ⟨-, -, hslots⟩ := h
  have hrising := List.pairwise_lt_range (n := s.count.toNat)
  rw [← hslots] at hrising
  exact List.pairwise_map.1 hrising

theorem captured_of_count_zero {s : State} (h : s.bufferInv) (hcount : s.count = 0) : captured s = [] := by
  obtain ⟨-, -, hslots⟩ := h
  rw [hcount] at hslots
  rw [captured, List.map_eq_nil_iff.1 hslots]
  rfl

theorem step_decode {s : State} {spl : Bool} {outLen : Word} {rest : List Event} {bs : List Byte} (h : s.bufferInv)
    (hcount : s.count ≠ 0) (hbytes : decodedBytes (captured s) s.prof spl = bs) (hlen : bs.length ≤ outLen.toNat)
    (hs : s.inbox = .command (encode (.decode spl outLen)) :: rest) :
    step s = .next ((s.setInbox rest).answer [BitVec.ofNat 32 bs.length] (.bytes bs)) := by
  subst hbytes
  exact (step_legal hs (decode_encode _)).trans
    ((capacityCheckUsesTheWholeLength spl outLen (s.setInbox rest) h hcount).2 hlen)

/-- Settles O47: the pushes leave the bytes' nominal pulses captured, under the built profile those decode to the
bytes, and the output holds them (R124, R151, R161). -/
theorem pushedBytesAreDecodedBack : Obligations.PushedBytesAreDecodedBack := by
  intro s n tol bs outLen hbuf hcount hcap hprof htol hhigh hlow hbs hlen hs
  have hinv : s.Inv := ⟨hbuf, hprof ▸ windowsOrdered_buildProfile n tol, wf_of_bufferInv hbuf⟩
  have hpulses := length_bytesPulses n bs
  have hzero : s.count.toNat = 0 := congrArg BitVec.toNat hcount
  have hstream : s.inbox = (bytesPulses n bs).map (fun q => Event.command (encode q.push)) ++
      [.command (encode (.decode true outLen))] := by
    rw [hs, ← bytesPulses_map_push, List.map_append, List.map_map]
    rfl
  obtain ⟨u, hrun, happ⟩ := run_pushes hinv (by omega) hstream
  rw [hpulses] at hrun
  have hucount : u.count.toNat = 16 * bs.length := by
    rw [happ.count, hzero, List.length_map, hpulses, Nat.zero_add]
  have hne : u.count ≠ 0 := by
    intro h
    have hempty : u.count.toNat = 0 := congrArg BitVec.toNat h
    have hpos := List.length_pos_iff.2 hbs
    omega
  have hbytes : decodedBytes (captured u) u.prof true = bs := by
    rw [happ.captured, captured_of_count_zero hbuf hcount, List.nil_append, bytesPulses_map_edge, happ.prof,
      hprof, decodedBytes_bytesEdges hhigh hlow htol]
  have hstep := step_decode happ.inv.1 hne hbytes hlen happ.inbox
  refine ⟨_, (core_run_append 1 hrun).trans (core_run_next hstep), rfl, hucount, ?_⟩
  rw [State.answer_responses, List.getLast?_concat]
  rfl

end Sys2Proof.Proofs
end
